-- ==== Sys2Proof/Word.lean ====
section
/-! DEFINITION. The word types of the engine: every value is unsigned (00_scope.md R15, R17). -/

namespace Sys2Proof

/-- A u8: one byte of the buffer (R39). -/
abbrev Byte := BitVec 8

/-- A u16: one word of a checksum sum, a port, a length (R15). -/
abbrev Half := BitVec 16

/-- A u32: one register of the window, an IPv4 address, a command word (R22, R30, R90). -/
abbrev Word := BitVec 32

/-- A byte offset from BLOCK_BASE, as the block decodes it (R62). -/
abbrev Offset := BitVec 17

end Sys2Proof
end

