-- ==== Sys2Proof/Config.lean ====
section
/-! DEFINITION. The parameters of 00_scope.md section 4, and the free values the spec leaves open. -/

namespace Sys2Proof

/-- HDR_LEN, the length of a header in bytes (R8). -/
def Config.hdrLen : Nat := 8

/-- PROTO, the protocol number the pseudo-header adds (R9). -/
def Config.proto : Nat := 0x11

/-- MAX_DGRAM, the length of the longest datagram (R11). -/
def Config.maxDgram : Nat := 65535

/-- MAX_PAYLOAD, the length of the longest payload ENCODE takes (R12). -/
def Config.maxPayload : Nat := 65527

/-- BUF_SIZE, the number of buffer bytes (R14, R39). -/
def Config.bufSize : Nat := 65536

/-- STRICT_CHECKSUM: false for this hardware, so the fallback of R175 is always tried (R14, D29). -/
def Config.strictChecksum : Bool := false

/-- BLOCK_BASE, the platform's address of the block: OPEN, so it has no value here (R14, R69, D39). Log 10. -/
opaque Config.blockBase : Nat

/-- What the n-th host read under R271 returns: "a fresh draw, under no law". Log 5. -/
opaque Config.freeWord : Nat → Word

end Sys2Proof
end

