-- ==== Sys2Proof/Syntax.lean ====
section
/-! DEFINITION. The commands (opcode_table.json, R95), the command word's fields (R90), the outcomes a command
reports (R36, R220), the host's bus accesses and its notation (R22, R104), and the events of R74's order of steps. -/

namespace Sys2Proof

/-- The six commands of the opcode map (R95), one constructor per row of opcode_table.json; none has an operand field (R94). -/
inductive Instr where
  | nop        -- OP 0x0 (R205)
  | csumRecv   -- OP 0x1 (R140)
  | csumSend   -- OP 0x2 (R145)
  | pseudoSum  -- OP 0x3 (R150)
  | encode     -- OP 0x4 (R180)
  | decode     -- OP 0x5 (R185)
  deriving DecidableEq, Repr

/-- The three fields of the one command format (R90). -/
structure CmdFields where
  /-- RSV, bits [31:5] (R93). -/
  rsv : BitVec 27
  /-- AW, bit [4]: 0 for 4-byte addresses, 1 for 16-byte ones (R92). -/
  aw : BitVec 1
  /-- OP, bits [3:0] (R91). -/
  op : BitVec 4
  deriving DecidableEq, Repr

/-- The errors a command can complete with (R220); code 0 NONE is the absence of one, codes 4 to 15 are never produced (U12). -/
inductive CmdError where
  /-- Code 1: reserved opcode, reserved bit set, or NOP with AW = 1 (R223). -/
  | illegalCmd
  /-- Code 2: AW = 1 on a checksum or codec command, under IPV6_MODE = Refuse (R224). -/
  | addrWidth
  /-- Code 3: LEN outside the command's range (R225). -/
  | lenRange
  deriving DecidableEq, Repr

/-- The verdicts of a DECODE (R36, R170); code 0 NONE is the absence of one, codes 6 and 7 are never produced (U12). -/
inductive Verdict where
  /-- Code 1: accepted by the full check (R174). -/
  | accFull
  /-- Code 2: accepted by the fallback alone (R175). -/
  | accPseudo
  /-- Code 3: fewer than 8 bytes (R171). -/
  | rejShort
  /-- Code 4: wrong destination port (R173). -/
  | rejPort
  /-- Code 5: both checksum checks failed (R176). -/
  | rejCsum
  deriving DecidableEq, Repr

/-- The four header fields of the wire format (R160). -/
structure HeaderFields where
  sport : Half
  dport : Half
  length : Half
  checksum : Half
  deriving DecidableEq, Repr

/-- What decode returns (R178), one constructor per verdict with exactly what that verdict carries: `h` is the parsed
header (sp, dp, L, ck), `r` receiveChecksum, `p` pseudoHeaderSum. Only an accepting verdict carries a payload (R177). -/
inductive DecodeResult where
  /-- REJ_SHORT: no byte is read, so nothing is parsed (R171). -/
  | rejShort
  /-- REJ_PORT: no checksum is computed (R173). -/
  | rejPort (h : HeaderFields)
  /-- ACC_FULL (R174). -/
  | accFull (h : HeaderFields) (r p : Half) (payload : List Byte)
  /-- ACC_PSEUDO (R175). -/
  | accPseudo (h : HeaderFields) (r p : Half) (payload : List Byte)
  /-- REJ_CSUM: the checksums, and no payload (R176). -/
  | rejCsum (h : HeaderFields) (r p : Half)
  deriving DecidableEq, Repr

/-- The eleven registers of the register window (R22). -/
inductive Reg where
  | ctrl | cmd | status | len | srcIp | dstIp | ports | result | rxPorts | rxFields | outLen
  deriving DecidableEq, Repr

/-- One bus access of the host (R62 to R67, R104): kind, width in bits, block offset and, for a write, the data.
Any width can be asked for, so that R67 has something to refuse; only the low `width` bits of `data` count. -/
inductive Access where
  | read (width : Nat) (off : Offset)
  | write (width : Nat) (off : Offset) (data : Word)
  deriving DecidableEq, Repr

/-- A line of a host program (R104): one bus access each. -/
inductive HostLine where
  | wr (r : Reg) (v : Word)
  | rd (r : Reg)
  | wrb (b : Half) (v : Byte)
  | wrh (b : Half) (v : Half)
  | wrw (b : Half) (v : Word)
  | rdb (b : Half)
  | rdh (b : Half)
  | rdw (b : Half)
  deriving DecidableEq, Repr

/-- One entry of the coming order of steps (R74, R204, R260). Log 1. -/
inductive Event where
  /-- The host performs one bus access. -/
  | host (a : Access)
  /-- It is the engine's turn: it completes the command in flight, if there is one (R203). -/
  | engine
  /-- The platform asserts the reset input (R260). -/
  | reset
  deriving DecidableEq, Repr

end Sys2Proof
end

