-- ==== Sys2Proof/WellFormed.lean ====
section
/-! DEFINITION. Which command fields are one of the six legal words (R96), which commands and which lines of a host
program are well formed (R94, R104). -/

namespace Sys2Proof

/-- A legal command word's fields: no reserved bit (R98), 4-byte addresses (R99, R100), an assigned opcode (R97). -/
def CmdFields.wellFormed (f : CmdFields) : Bool :=
  f.rsv == 0 && f.aw == 0 && decide (f.op.toNat < 6)

/-- A command has no operand field (R94), so every term of `Instr` is one. -/
def Instr.wellFormed : Instr → Bool
  | .nop => true
  | .csumRecv => true
  | .csumSend => true
  | .pseudoSum => true
  | .encode => true
  | .decode => true

/-- R104's side conditions: `b` is even for a 16-bit line and a multiple of 4 for a 32-bit one. -/
def HostLine.wellFormed : HostLine → Bool
  | .wr _ _ => true
  | .rd _ => true
  | .wrb _ _ => true
  | .rdb _ => true
  | .wrh b _ => b.toNat % 2 == 0
  | .rdh b => b.toNat % 2 == 0
  | .wrw b _ => b.toNat % 4 == 0
  | .rdw b => b.toNat % 4 == 0

end Sys2Proof
end

