-- ==== Sys2Proof/Decode.lean ====
section
/-! DEFINITION. The decoder of command words (R103), total on every 32-bit word, the encoder, and the disassembler (R106). -/

namespace Sys2Proof

/-- The fields of a command word (R90). -/
def fieldsOf (w : Word) : CmdFields :=
  { rsv := w.extractLsb' 5 27, aw := w.extractLsb' 4 1, op := w.extractLsb' 0 4 }

/-- The assigned opcodes (R95). -/
def commandOf (op : BitVec 4) : Option Instr :=
  match op.toNat with
  | 0 => some .nop
  | 1 => some .csumRecv
  | 2 => some .csumSend
  | 3 => some .pseudoSum
  | 4 => some .encode
  | 5 => some .decode
  | _ => none

/-- `decode_cmd` of R103, its tests in the order of R226. -/
def decodeCmd (w : Word) : Except CmdError Instr :=
  if (fieldsOf w).rsv ≠ 0 then .error .illegalCmd                 -- R98
  else match commandOf (fieldsOf w).op with
  | none => .error .illegalCmd                                    -- R97
  | some .nop =>
    if (fieldsOf w).aw = 1 then .error .illegalCmd else .ok .nop  -- R100
  | some i =>
    if (fieldsOf w).aw = 1 then .error .addrWidth else .ok i      -- R99, IPV6_MODE = Refuse (log 8)

/-- The opcode of a command (R95). -/
def Instr.opcode : Instr → BitVec 4
  | .nop => 0x0
  | .csumRecv => 0x1
  | .csumSend => 0x2
  | .pseudoSum => 0x3
  | .encode => 0x4
  | .decode => 0x5

/-- The fields of a command's word (R90, R92, R93). -/
def Instr.fields (i : Instr) : CmdFields := { rsv := 0, aw := 0, op := i.opcode }

/-- The word with the given fields (R90). -/
def encodeFields (f : CmdFields) : Word := f.rsv ++ f.aw ++ f.op

/-- The command word of a command (R96). -/
def encode (i : Instr) : Word := encodeFields i.fields

/-- The command the decoder reads from a row of opcode_table.json: a command is one 32-bit word (R90, R102), whose bits
the table numbers as R90 does; the bits from `nbits` up are 0. -/
def decodeTableWord (nbits w : Nat) : Option Instr :=
  if nbits ≤ 32 then
    match decodeCmd (BitVec.ofNat 32 (w % 2 ^ nbits)) with
    | .ok i => some i
    | .error _ => none
  else none

/-- The mnemonic of a command (R95). -/
def Instr.mnemonic : Instr → String
  | .nop => "NOP"
  | .csumRecv => "CSUM_RECV"
  | .csumSend => "CSUM_SEND"
  | .pseudoSum => "PSEUDO_SUM"
  | .encode => "ENCODE"
  | .decode => "DECODE"

/-- One hexadecimal digit. -/
def hexDigit (d : BitVec 4) : Char := "0123456789ABCDEF".toList.getD d.toNat '0'

/-- A word as eight hexadecimal digits, the most significant first. -/
def hexWord (w : Word) : String :=
  String.ofList ([28, 24, 20, 16, 12, 8, 4, 0].map fun k => hexDigit (w.extractLsb' k 4))

/-- The disassembler of R106: a legal word as its mnemonic, any other as `.cmd 0x<w>`. Log 13. -/
def disassemble (w : Word) : String :=
  match decodeCmd w with
  | .ok i => i.mnemonic
  | .error _ => ".cmd 0x" ++ hexWord w

end Sys2Proof
end

