-- ==== Sys2Proof/Machine/State.lean ====
section
/-! DEFINITION. The state of the machine (10_state.md), its reset value (R52), and the reasons it stops (R236). -/

namespace Sys2Proof.Machine

/-- The model faults of R236: the host did something the spec gives no meaning. The step that raises one marks it in
FAULT and has no other effect (`modelFault`); every later step of an agent answers it. All three are SAFE: the model
stops where the hardware would do something unspecified. -/
inductive Fault where
  /-- HOST_BUS_ERROR: raised by a host access of illegal width or alignment (R67). Safe. -/
  | hostBusError
  /-- UNINIT_READ: raised by a host or engine read of a buffer byte whose mark W is false (R237). Safe. -/
  | uninitRead
  /-- HAZARD_WRITE_BUSY: raised by a host write forbidden while a command is in flight (R270). Safe. -/
  | hazardWriteBusy
  deriving DecidableEq, Repr

/-- Reasons a step has no meaning. Every command of the table has its meaning, so no step answers one. -/
inductive Refusal where
  /-- Raised by an arm of `exec` whose instruction has no meaning yet: there is none. Safe. -/
  | notModelled (mnemonic : String)
  deriving DecidableEq, Repr

/-- The buffer (R39) with its written marks (R40): the pairs (i, BUF[i]) of the bytes whose mark W[i] is true, at
strictly rising addresses. An unlisted byte has W = false and no value. Log 4. -/
abbrev Memory := List Host.Cell

/-- The canonical form: strictly rising addresses, all of them in the buffer (R39). -/
abbrev Memory.wf (m : Memory) : Prop :=
  m.Pairwise (fun c d => c.1 < d.1) ∧ ∀ c ∈ m, c.1 < Config.bufSize

/-- STATUS (R32 to R37). Its reserved bits are RAZ/WI (R38), so they are not stored. -/
structure Status where
  /-- A command is in flight (R32). -/
  busy : Bool
  /-- The last command completed without an error (R33). -/
  done : Bool
  /-- The last command completed with an error (R34). -/
  err : Bool
  /-- The last completed command was a DECODE that accepted (R35). -/
  accept : Bool
  /-- REASON (R36): `none` is code 0. -/
  reason : Option Verdict
  /-- ERRCODE (R37): `none` is code 0. -/
  errcode : Option CmdError
  deriving DecidableEq, Repr

/-- STATUS = 0x00000000 (R52). -/
def Status.zero : Status :=
  { busy := false, done := false, err := false, accept := false, reason := none, errcode := none }

/-- The architectural state of R21, and three fields of the model's own: the coming order of steps, what the host last
read, and how many free draws were made. -/
structure State where
  /-- CTRL.IRQ_EN (R23). -/
  irqEn : Bool
  /-- CMD, as last written (R25, R26). -/
  cmd : Word
  /-- STATUS (R32 to R38). -/
  status : Status
  /-- LEN.LEN (R27). -/
  len : Half
  /-- SRC_IP (R28, R30). -/
  srcIp : Word
  /-- DST_IP (R29, R30). -/
  dstIp : Word
  /-- PORTS (R31). -/
  ports : Word
  /-- RESULT (R41). -/
  result : Word
  /-- RX_PORTS (R42). -/
  rxPorts : Word
  /-- RX_FIELDS (R43). -/
  rxFields : Word
  /-- OUT_LEN.N (R44). -/
  outLen : Half
  /-- BUF and W (R39, R40). -/
  mem : Memory
  /-- PEND, the in-flight latch (R48). -/
  pend : Option Word
  /-- FAULT, the sticky model-fault mark (R49). -/
  fault : Option Fault
  /-- The model's own: the coming order of steps (R74). Log 1. -/
  agenda : List Event
  /-- The model's own: the value the most recent host read returned, zero-extended (R65, R210). Log 6. -/
  hostData : Option Word
  /-- The model's own: the number of free draws made (R271). Log 5. -/
  draws : Nat
  deriving DecidableEq, Repr

/-- The state after reset (R52): every register zero, no command in flight, every mark false; no model fault and
nothing yet asked of the host port (log 9). -/
def State.reset : State :=
  { irqEn := false, cmd := 0, status := Status.zero, len := 0, srcIp := 0, dstIp := 0, ports := 0, result := 0,
    rxPorts := 0, rxFields := 0, outLen := 0, mem := [], pend := none, fault := none, agenda := [], hostData := none,
    draws := 0 }

/-- Whose step comes next, as `nextTurn` reads it from the state. -/
inductive Turn where
  /-- The platform's reset input (R260). -/
  | reset
  /-- No agent takes a step after a model fault (R236). -/
  | stopped (f : Fault)
  /-- A bus access of the host. -/
  | host (a : Access)
  /-- The engine completes the command word in flight (R203). -/
  | complete (w : Word)
  /-- The engine has nothing in flight, so its step is not enabled (R203). -/
  | idle
  deriving DecidableEq, Repr

end Sys2Proof.Machine
end

