-- ==== Sys2Proof/Machine/Flags.lean ====
section
/-! DEFINITION. STATUS and the interrupt line: what issue, completion, an error, a verdict and an acknowledgement do to
the status bits, and the word a read of STATUS returns. -/

namespace Sys2Proof.Machine

/-- A command's code in ERRCODE (R220). -/
def errorCode : CmdError → BitVec 4
  | .illegalCmd => 1
  | .addrWidth => 2
  | .lenRange => 3

/-- ERRCODE as read (R37). -/
def errcodeBits : Option CmdError → BitVec 4
  | none => 0
  | some e => errorCode e

/-- A verdict's code in REASON (R36). -/
def verdictCode : Verdict → BitVec 3
  | .accFull => 1
  | .accPseudo => 2
  | .rejShort => 3
  | .rejPort => 4
  | .rejCsum => 5

/-- REASON as read (R36). -/
def reasonBits : Option Verdict → BitVec 3
  | none => 0
  | some v => verdictCode v

/-- The accepting verdicts (R178). -/
def accepting : Verdict → Bool
  | .accFull => true
  | .accPseudo => true
  | .rejShort => false
  | .rejPort => false
  | .rejCsum => false

/-- STATUS as read: ERRCODE [11:8], REASON [6:4], ACCEPT [3], ERR [2], DONE [1], BUSY [0], every other bit 0 (R32 to R38). -/
def statusWord (t : Status) : Word :=
  (0 : BitVec 20) ++ errcodeBits t.errcode ++ (0 : BitVec 1) ++ reasonBits t.reason ++ BitVec.ofBool t.accept
    ++ BitVec.ofBool t.err ++ BitVec.ofBool t.done ++ BitVec.ofBool t.busy

/-- STATUS from the issue of a command on (R201). -/
def statusIssued : Status := { Status.zero with busy := true }

/-- STATUS after a completion without an error (R203): DONE set, BUSY cleared, the rest as it stands. -/
def statusDone (t : Status) : Status := { t with done := true, busy := false }

/-- STATUS after a completion with an error (R222, R203). -/
def statusFailed (e : CmdError) : Status :=
  { busy := false, done := false, err := true, accept := false, reason := none, errcode := some e }

/-- ACCEPT and REASON as a DECODE's verdict sets them (R186). -/
def statusJudged (v : Verdict) (t : Status) : Status := { t with accept := accepting v, reason := some v }

/-- STATUS after a host write of `v` to it (R207): bit [1] clears DONE, bit [2] clears ERR and ERRCODE. -/
def statusAcked (v : Word) (t : Status) : Status :=
  { t with
    done := t.done && !v.getLsbD 1
    err := t.err && !v.getLsbD 2
    errcode := if v.getLsbD 2 then none else t.errcode }

/-- The interrupt output, IRQ = CTRL.IRQ_EN & (STATUS.DONE | STATUS.ERR) (R50). -/
def State.irq (s : State) : Bool := s.irqEn && (s.status.done || s.status.err)

end Sys2Proof.Machine
end

