-- ==== Sys2Proof/Machine/Ops.lean ====
section
/-! DEFINITION. The named operations over buffer and registers: reading and writing buffer bytes, issue (R201), the two
completions (R203, R222), the acknowledgement (R230), the model fault (R236), the platform reset (R260), the host
port's answers (R210, R271), and whose turn it is (R74). -/

namespace Sys2Proof.Machine

/-- BUF[i] where W[i] is true, `none` where it is false (R40). -/
def Memory.read : Memory → Nat → Option Byte
  | [], _ => none
  | (a, b) :: m, i => if a = i then some b else Memory.read m i

/-- BUF[i] becomes v and W[i] true (R40, R66). -/
def Memory.write : Memory → Nat → Byte → Memory
  | [], i, v => [(i, v)]
  | (a, b) :: m, i, v =>
    if i < a then (i, v) :: (a, b) :: m
    else if i = a then (i, v) :: m
    else (a, b) :: Memory.write m i v

/-- BUF[off:off+n], `none` if a mark in it is false (R16 MemRead, R237). -/
def Memory.readRange (m : Memory) : Nat → Nat → Option (List Byte)
  | _, 0 => some []
  | off, n + 1 =>
    match m.read off, Memory.readRange m (off + 1) n with
    | some b, some d => some (b :: d)
    | _, _ => none

/-- The bytes of a list into BUF from `off` on, every one of them marked (R16 MemWrite, R66). -/
def Memory.writeBytes (m : Memory) : Nat → List Byte → Memory
  | _, [] => m
  | off, b :: d => Memory.writeBytes (m.write off b) (off + 1) d

/-- The mark W[i] (R40). -/
def Memory.written (m : Memory) (i : Nat) : Bool := (m.read i).isSome

/-- A model fault (R236): FAULT is marked and the step that raised it has no other effect. Log 2. -/
def modelFault (f : Fault) (s : State) : State := { s with fault := some f }

/-- Issue of the command word `w` (R201). -/
def issue (w : Word) (s : State) : State :=
  { s with cmd := w, pend := some w, status := statusIssued }

/-- The end of a completion without an error (R203). -/
def succeed (s : State) : State := { s with status := statusDone s.status, pend := none }

/-- The block's one exception entry (R222, R229): a command that completes with error `e` changes STATUS, and PEND with
it (R203), and nothing else. No control is transferred and nothing is saved. -/
def errorCompletion (e : CmdError) (s : State) : State :=
  { s with status := statusFailed e, pend := none }

/-- The return from it (R230): the host's write of `v` to STATUS (R207); nothing was saved, so nothing is restored. -/
def acknowledge (v : Word) (s : State) : State := { s with status := statusAcked v s.status }

/-- The four output registers as every command but NOP writes them (D16). -/
def writeOutputs (result rxPorts rxFields : Word) (outLen : Half) (s : State) : State :=
  { s with result := result, rxPorts := rxPorts, rxFields := rxFields, outLen := outLen }

/-- ACCEPT and REASON (R186). -/
def judge (v : Verdict) (s : State) : State := { s with status := statusJudged v s.status }

/-- The platform's reset (R260, R261): R52's state; FAULT stays (R263), and so does what is not the block's: the coming
order of steps, what the host read, the number of draws. Log 3. -/
def platformReset (s : State) : State :=
  { State.reset with fault := s.fault, agenda := s.agenda, hostData := s.hostData, draws := s.draws }

/-- A host read returns `v` (R210); a read changes no state of the block (R72). -/
def respond (v : Word) (s : State) : State := { s with hostData := some v }

/-- A host read of `width` bits returns any value, a fresh draw (R271). Log 5. -/
def respondAny (width : Nat) (s : State) : State :=
  { s with
    hostData := some (BitVec.ofNat 32 ((Config.freeWord s.draws).toNat % 2 ^ width))
    draws := s.draws + 1 }

/-- The step now taken is no longer to come (R74). -/
def advance (s : State) : State := { s with agenda := s.agenda.tail }

/-- The engine's step: enabled exactly when PEND holds a command (R203). -/
def engineTurn (s : State) : Turn :=
  match s.pend with
  | some w => .complete w
  | none => .idle

/-- Whose step comes next (R74, R203, R236). The reset input is no agent, so a marked fault does not hold it off (R49,
log 3). With nothing more to come from outside, the engine has the turn: R204's fairness. Log 1. -/
def nextTurn (s : State) : Turn :=
  match s.fault, s.agenda with
  | _, .reset :: _ => .reset
  | some f, _ => .stopped f
  | none, .host a :: _ => .host a
  | none, .engine :: _ => engineTurn s
  | none, [] => engineTurn s

/-- The state in which the engine's very next step is the completion of the command word `w`, as if the host had just
issued it (R201). Log 11. -/
def withCommand (w : Word) (s : State) : State :=
  { issue w s with fault := none, agenda := .engine :: s.agenda }

end Sys2Proof.Machine
end

