-- ==== Sys2Proof/Machine/Operands.lean ====
section
/-! DEFINITION. Every view of an operand: the halves and bytes of a word (R15, R30), the fields of PORTS (R31), the
big-endian words of a datagram (R16, R60), a host access's bytes (R65, R66), and a command's buffer reads and writes. -/

namespace Sys2Proof.Machine

/-- `x[31:16]`: the first half of an address, the upper field of a register (R30). -/
def hiHalf (x : Word) : Half := x.extractLsb' 16 16

/-- `x[15:0]` (R30). -/
def loHalf (x : Word) : Half := x.extractLsb' 0 16

/-- `x[15:8]` (R15). -/
def hiByte (x : Half) : Byte := x.extractLsb' 8 8

/-- `x[7:0]` (R15). -/
def loByte (x : Half) : Byte := x.extractLsb' 0 8

/-- PORTS.SPORT (R31). -/
def State.sport (s : State) : Half := hiHalf s.ports

/-- PORTS.DPORT (R31). -/
def State.dport (s : State) : Half := loHalf s.ports

/-- Byte i of a byte sequence (R16). Beyond its end, where no rule reads, it is 0 (log 14). -/
def byteAt (d : List Byte) (i : Nat) : Byte := d.getD i 0

/-- `be16(d, i)`: the byte at the lower offset is the more significant (R16, R60). -/
def be16 (d : List Byte) (i : Nat) : Half := byteAt d i ++ byteAt d (i + 1)

/-- What a host read of one, two or four buffer bytes returns, the lowest offset most significant (R65), zero-extended
to the 32 bits of `hostData` (log 6). -/
def joinBytes : List Byte → Word
  | [a] => (0 : BitVec 24) ++ a
  | [a, b] => (0 : BitVec 16) ++ a ++ b
  | [a, b, c, d] => a ++ b ++ c ++ d
  | _ => 0

/-- The bytes a host write of `width` bits of `v` stores, the first at the lowest offset (R66). -/
def splitBytes (width : Nat) (v : Word) : List Byte :=
  if width = 8 then [v.extractLsb' 0 8]
  else if width = 16 then [v.extractLsb' 8 8, v.extractLsb' 0 8]
  else if width = 32 then [v.extractLsb' 24 8, v.extractLsb' 16 8, v.extractLsb' 8 8, v.extractLsb' 0 8]
  else []

/-- `MemRead(off, n)` (R16); `none` where a byte's mark is false (R237). -/
def memRead (off n : Nat) (s : State) : Option (List Byte) := s.mem.readRange off n

/-- `MemWrite` of the bytes `d` from `off` on (R16, R181). -/
def memWrite (off : Nat) (d : List Byte) (s : State) : State := { s with mem := s.mem.writeBytes off d }

/-- The word with the two given fields, `{h, l}` of R15. -/
def pair (h l : Half) : Word := h ++ l

end Sys2Proof.Machine
end

