-- ==== Sys2Proof/Machine/Arith.lean ====
section
/-! DEFINITION. The source's checksum arithmetic as pure functions (40_checksum.md sections 1 and 2): fold, fold1, words,
pseudoHeaderSum, receiveChecksum and sendChecksum. -/

namespace Sys2Proof.Machine

/-- One pass of R121's loop: end-around carry of the bits above bit 15. -/
def foldPass (x : Nat) : Nat := x % 65536 + x / 65536

/-- R121's loop, at most `n` passes of it. -/
def foldLoop : Nat → Nat → Nat
  | 0, x => x
  | n + 1, x => if x > 0xFFFF then foldLoop n (foldPass x) else x

/-- `fold(x)` (R121). Three passes are more than any u32 needs (log 15); the spec gives fold no argument
beyond a u32 (log 19). -/
def fold (x : Nat) : Half := BitVec.ofNat 16 (foldLoop 3 x)

/-- `fold1(x)` (R122): a single pass, and a carry out of it is dropped (D11). -/
def fold1 (x : Nat) : Half := BitVec.ofNat 16 (foldPass x)

/-- Bytes 6 and 7 taken out (R125). -/
def excise (d : List Byte) : List Byte := d.take 6 ++ d.drop 8

/-- One zero byte appended to an odd length (R125, D12). -/
def padEven (e : List Byte) : List Byte := if e.length % 2 = 1 then e ++ [0] else e

/-- The big-endian words of a sequence of even length (R125). -/
def pairWords : List Byte → List Half
  | h :: l :: e => (h ++ l) :: pairWords e
  | _ => []

/-- `words(d)` (R125). -/
def words (d : List Byte) : List Half := pairWords (padEven (excise d))

/-- The sum of words in an accumulator that does not overflow (R124). -/
def sumWords (l : List Half) : Nat := (l.map BitVec.toNat).sum

/-- The six addends of the pseudo-header, before folding (R126): the Length FIELD, not the length of `d`. -/
def pseudoAddends (d : List Byte) (s t : Word) : Nat :=
  (be16 d 4).toNat + (hiHalf s).toNat + (loHalf s).toNat + (hiHalf t).toNat + (loHalf t).toNat + Config.proto

/-- `pseudoHeaderSum(d, s, t)` (R126). -/
def pseudoHeaderSum (d : List Byte) (s t : Word) : Half := fold1 (pseudoAddends d s t)

/-- `receiveChecksum(d, s, t)` (R127). -/
def receiveChecksum (d : List Byte) (s t : Word) : Half :=
  let a := fold (sumWords (words d))
  let p := pseudoHeaderSum d s t
  let b := fold (a.toNat + p.toNat)
  if b = 0x0000 then 0xFFFF else b

/-- `sendChecksum(d, s, t)` (R131). -/
def sendChecksum (d : List Byte) (s t : Word) : Half := ~~~ receiveChecksum d s t

end Sys2Proof.Machine
end

