-- ==== Sys2Proof/Machine/Checksum.lean ====
section
/-! DEFINITION. The three checksum commands (40_checksum.md sections 4 to 6). -/

namespace Sys2Proof.Machine

/-- The completion step the three checksum commands share (R141, R146, R151), for the function `f` they expose: LEN_RANGE
before any read (R143), then the whole of BUF[0:LEN] (R237), then RESULT.CSUM with every other output 0. -/
def checksumCommand (f : List Byte → Word → Word → Half) (s : State) : Host.Outcome State Fault Refusal :=
  if s.len.toNat < Config.hdrLen then .next (errorCompletion .lenRange s)
  else match memRead 0 s.len.toNat s with
  | none => .next (modelFault .uninitRead s)
  | some d => .next (succeed (writeOutputs (pair 0 (f d s.srcIp s.dstIp)) 0 0 0 s))

/-- CSUM_RECV (R141). -/
def execCsumRecv (s : State) : Host.Outcome State Fault Refusal := checksumCommand receiveChecksum s

/-- CSUM_SEND (R146). -/
def execCsumSend (s : State) : Host.Outcome State Fault Refusal := checksumCommand sendChecksum s

/-- PSEUDO_SUM (R151). -/
def execPseudoSum (s : State) : Host.Outcome State Fault Refusal := checksumCommand pseudoHeaderSum s

end Sys2Proof.Machine
end

