-- ==== Sys2Proof/Machine/Datagram.lean ====
section
/-! DEFINITION. The source's header codec as pure functions over byte sequences (41_codec.md sections 2 and 3). -/

namespace Sys2Proof.Machine

/-- A 16-bit value as its two bytes, big-endian (R160). -/
def halfBytes (x : Half) : List Byte := [hiByte x, loByte x]

/-- The 8-byte header of R161, its checksum field still zero. -/
def headerBytes (sp dp len : Half) : List Byte :=
  halfBytes sp ++ halfBytes dp ++ halfBytes len ++ [0x00, 0x00]

/-- Bytes 6 and 7 of a datagram become the checksum `c` (R161). -/
def putChecksum (c : Half) (d : List Byte) : List Byte := (d.set 6 (hiByte c)).set 7 (loByte c)

/-- `encode(payload, sp, dp, s, t)` (R161), which requires a payload of at most 65527 bytes. DESIGN CHOICE (log 19): the
function is total, and for a longer payload, where the spec states no result (N4), its Length field is 8 + n modulo
2^16. ENCODE completes with LEN_RANGE before it calls the function on one (R183). -/
def encodeDatagram (payload : List Byte) (sp dp : Half) (s t : Word) : List Byte :=
  let d := headerBytes sp dp (BitVec.ofNat 16 (Config.hdrLen + payload.length)) ++ payload
  putChecksum (sendChecksum d s t) d

/-- The header of a datagram (R160, R172). -/
def parseHeader (d : List Byte) : HeaderFields :=
  { sport := be16 d 0, dport := be16 d 2, length := be16 d 4, checksum := be16 d 6 }

/-- `decode(raw, sender, lport, local)` (R178): the length, the port, the full check modulo 2^16 (R174, C3), then the
fallback (R175). The payload goes with an acceptance only (R177). -/
def decodeDatagram (raw : List Byte) (sender : Word) (lport : Half) (localIp : Word) : DecodeResult :=
  if raw.length < Config.hdrLen then .rejShort
  else
    let h := parseHeader raw
    if h.dport ≠ lport then .rejPort h
    else
      let r := receiveChecksum raw sender localIp
      let p := pseudoHeaderSum raw sender localIp
      if r + h.checksum = 0xFFFF then .accFull h r p (raw.drop Config.hdrLen)
      else if !Config.strictChecksum && p == h.checksum then .accPseudo h r p (raw.drop Config.hdrLen)
      else .rejCsum h r p

/-- The verdict of a result (R178). -/
def verdictOf : DecodeResult → Verdict
  | .rejShort => .rejShort
  | .rejPort _ => .rejPort
  | .accFull _ _ _ _ => .accFull
  | .accPseudo _ _ _ _ => .accPseudo
  | .rejCsum _ _ _ => .rejCsum

end Sys2Proof.Machine
end

