-- ==== Sys2Proof/Machine/Codec.lean ====
section
/-! DEFINITION. The ENCODE and DECODE commands (41_codec.md sections 4 and 5). -/

namespace Sys2Proof.Machine

/-- ENCODE (R181): LEN_RANGE before any read (R183), the payload from BUF[8:8+LEN], the header into BUF[0:8]. -/
def execEncode (s : State) : Host.Outcome State Fault Refusal :=
  if s.len.toNat > Config.maxPayload then .next (errorCompletion .lenRange s)
  else match memRead Config.hdrLen s.len.toNat s with
  | none => .next (modelFault .uninitRead s)
  | some payload =>
    let d := encodeDatagram payload s.sport s.dport s.srcIp s.dstIp
    .next (succeed (writeOutputs (pair 0 (be16 d 6)) 0 0 (BitVec.ofNat 16 (Config.hdrLen + s.len.toNat))
      (memWrite 0 (d.take Config.hdrLen) s)))

/-- What DECODE writes for a datagram whose checksums `r` and `p` were computed (R186), and its completion (R187). -/
def reportChecked (v : Verdict) (h : HeaderFields) (r p outLen : Half) (s : State) : State :=
  succeed (judge v (writeOutputs (pair p r) (pair h.sport h.dport) (pair h.length h.checksum) outLen s))

/-- What a DECODE of `n` bytes writes for its result (R186), and its completion (R187). -/
def reportDecode (n : Nat) (d : DecodeResult) (s : State) : State :=
  match d with
  | .rejShort => succeed (judge .rejShort (writeOutputs 0 0 0 0 s))
  | .rejPort h => succeed (judge .rejPort (writeOutputs 0 (pair h.sport h.dport) (pair h.length h.checksum) 0 s))
  | .accFull h r p _ => reportChecked .accFull h r p (BitVec.ofNat 16 (n - Config.hdrLen)) s
  | .accPseudo h r p _ => reportChecked .accPseudo h r p (BitVec.ofNat 16 (n - Config.hdrLen)) s
  | .rejCsum h r p => reportChecked .rejCsum h r p 0 s

/-- DECODE (R186): a short datagram is a verdict and no byte is read; else the whole of BUF[0:LEN] is (R188). -/
def execDecode (s : State) : Host.Outcome State Fault Refusal :=
  if s.len.toNat < Config.hdrLen then .next (reportDecode s.len.toNat .rejShort s)
  else match memRead 0 s.len.toNat s with
  | none => .next (modelFault .uninitRead s)
  | some raw => .next (reportDecode s.len.toNat (decodeDatagram raw s.srcIp s.dport s.dstIp) s)

end Sys2Proof.Machine
end

