-- ==== Sys2Proof/Machine/Control.lean ====
section
/-! DEFINITION. The NOP command (42_control.md section 2). -/

namespace Sys2Proof.Machine

/-- NOP (R205, R206): reads no operand, writes no output register and no buffer byte; it completes. -/
def execNop (s : State) : Host.Outcome State Fault Refusal := .next (succeed s)

end Sys2Proof.Machine
end

