-- ==== Sys2Proof/Machine/Dispatch.lean ====
section
/-! DEFINITION. One arm per command: its completion step (R203). -/

namespace Sys2Proof.Machine

def exec (i : Instr) (s : State) : Host.Outcome State Fault Refusal :=
  match i with
  | .nop => Sys2Proof.Machine.execNop s
  | .csumRecv => Sys2Proof.Machine.execCsumRecv s
  | .csumSend => Sys2Proof.Machine.execCsumSend s
  | .pseudoSum => Sys2Proof.Machine.execPseudoSum s
  | .encode => Sys2Proof.Machine.execEncode s
  | .decode => Sys2Proof.Machine.execDecode s

end Sys2Proof.Machine
end

