-- ==== Sys2Proof/Machine/HostPort.lean ====
section
/-! DEFINITION. The host port (20_memory.md, 42_control.md section 3): what one bus access of the host does. -/

namespace Sys2Proof.Machine

/-- The block offset of a platform address, `none` outside the block's 128 KiB: such an access is not the block's (R69). -/
def blockOffset (addr : Nat) : Option Offset :=
  if Config.blockBase ≤ addr ∧ addr < Config.blockBase + 0x20000 then
    some (BitVec.ofNat 17 (addr - Config.blockBase))
  else none

/-- The offset lies in the register window (R62). -/
def inRegWindow (off : Offset) : Bool := decide (off.toNat < 0x10000)

/-- The buffer byte an offset of the buffer window names (R62). -/
def bufIndex (off : Offset) : Nat := off.toNat - 0x10000

/-- The width and alignment rules: 32 bits at a multiple of 4 in the register window (R63); 8, 16 or 32 bits, naturally
aligned, in the buffer window (R65, R66). Every other access is HOST_BUS_ERROR (R67). -/
def legalShape (width : Nat) (off : Offset) : Bool :=
  if inRegWindow off then width == 32 && off.toNat % 4 == 0
  else width == 8 || (width == 16 && off.toNat % 2 == 0) || (width == 32 && off.toNat % 4 == 0)

/-- The offset of a register (R22). -/
def Reg.offset : Reg → Offset
  | .ctrl => 0x00
  | .cmd => 0x04
  | .status => 0x08
  | .len => 0x0C
  | .srcIp => 0x10
  | .dstIp => 0x14
  | .ports => 0x18
  | .result => 0x1C
  | .rxPorts => 0x20
  | .rxFields => 0x24
  | .outLen => 0x28

/-- The register at an aligned offset of the register window, `none` at the reserved ones (R22, R64). -/
def regAt (off : Offset) : Option Reg :=
  match off.toNat with
  | 0x00 => some .ctrl
  | 0x04 => some .cmd
  | 0x08 => some .status
  | 0x0C => some .len
  | 0x10 => some .srcIp
  | 0x14 => some .dstIp
  | 0x18 => some .ports
  | 0x1C => some .result
  | 0x20 => some .rxPorts
  | 0x24 => some .rxFields
  | 0x28 => some .outLen
  | _ => none

/-- The current value of a register, its reserved bits 0 (R210). -/
def readReg (r : Reg) (s : State) : Word :=
  match r with
  | .ctrl => (0 : BitVec 31) ++ BitVec.ofBool s.irqEn
  | .cmd => s.cmd
  | .status => statusWord s.status
  | .len => pair 0 s.len
  | .srcIp => s.srcIp
  | .dstIp => s.dstIp
  | .ports => s.ports
  | .result => s.result
  | .rxPorts => s.rxPorts
  | .rxFields => s.rxFields
  | .outLen => pair 0 s.outLen

/-- The registers whose reads in flight return any value (R271). -/
def isOutput : Reg → Bool
  | .ctrl => false
  | .cmd => false
  | .status => false
  | .len => false
  | .srcIp => false
  | .dstIp => false
  | .ports => false
  | .result => true
  | .rxPorts => true
  | .rxFields => true
  | .outLen => true

/-- The registers a host write changes only while no command is in flight (R270). -/
def isOperand : Reg → Bool
  | .ctrl => false
  | .cmd => true
  | .status => false
  | .len => true
  | .srcIp => true
  | .dstIp => true
  | .ports => true
  | .result => false
  | .rxPorts => false
  | .rxFields => false
  | .outLen => false

/-- What a write of `v` stores (R72): CMD issues (R201), STATUS acknowledges (R207), CTRL and the operands store with
their RAZ/WI bits dropped (R208, R209), the output registers ignore it. -/
def storeReg (r : Reg) (v : Word) (s : State) : State :=
  match r with
  | .ctrl => { s with irqEn := v.getLsbD 0 }
  | .cmd => issue v s
  | .status => acknowledge v s
  | .len => { s with len := loHalf v }
  | .srcIp => { s with srcIp := v }
  | .dstIp => { s with dstIp := v }
  | .ports => { s with ports := v }
  | .result => s
  | .rxPorts => s
  | .rxFields => s
  | .outLen => s

/-- A host read of a register (R210, R271). -/
def readRegister (r : Reg) (s : State) : State :=
  if s.status.busy && isOutput r then respondAny 32 s else respond (readReg r s) s

/-- A host write to a register (R207 to R209, R201, R270). -/
def writeRegister (r : Reg) (v : Word) (s : State) : State :=
  if s.status.busy && isOperand r then modelFault .hazardWriteBusy s else storeReg r v s

/-- A host read of the buffer (R65, R237, R271). -/
def readBuffer (width b : Nat) (s : State) : State :=
  match memRead b (width / 8) s with
  | none => modelFault .uninitRead s
  | some d => if s.status.busy then respondAny width s else respond (joinBytes d) s

/-- A host write of the buffer (R66, R270). -/
def writeBuffer (width b : Nat) (v : Word) (s : State) : State :=
  if s.status.busy then modelFault .hazardWriteBusy s else memWrite b (splitBytes width v) s

/-- One bus access of the host (R62 to R67). An access of illegal shape is HOST_BUS_ERROR before anything else (log 7). -/
def hostAccess (a : Access) (s : State) : State :=
  match a with
  | .read width off =>
    if !legalShape width off then modelFault .hostBusError s
    else if inRegWindow off then
      match regAt off with
      | some r => readRegister r s
      | none => respond 0 s                     -- R64
    else readBuffer width (bufIndex off) s
  | .write width off v =>
    if !legalShape width off then modelFault .hostBusError s
    else if inRegWindow off then
      match regAt off with
      | some r => writeRegister r v s
      | none => s                               -- R64
    else writeBuffer width (bufIndex off) v s

end Sys2Proof.Machine
end

