-- ==== Sys2Proof/Machine/HostProgram.lean ====
section
/-! DEFINITION. The host-program notation (30_encoding.md section 5): the bus access of each line, and the events the
pseudo-instructions expand to. -/

namespace Sys2Proof.Machine

/-- The offset of buffer byte `b` (R62). -/
def bufOffset (b : Half) : Offset := (1 : BitVec 1) ++ b

/-- The encoding of a line: the bus access it performs (R104). -/
def lineAccess : HostLine → Access
  | .wr r v => .write 32 (Reg.offset r) v
  | .rd r => .read 32 (Reg.offset r)
  | .wrb b v => .write 8 (bufOffset b) ((0 : BitVec 24) ++ v)
  | .wrh b v => .write 16 (bufOffset b) (pair 0 v)
  | .wrw b v => .write 32 (bufOffset b) v
  | .rdb b => .read 8 (bufOffset b)
  | .rdh b => .read 16 (bufOffset b)
  | .rdw b => .read 32 (bufOffset b)

/-- The event in which the host performs a line. -/
def lineEvent (l : HostLine) : Event := .host (lineAccess l)

/-- `CMD <mnemonic>`: the write of the command's word to CMD (R105). -/
def cmdEvents (i : Instr) : List Event := [lineEvent (.wr .cmd (encode i))]

/-- `WAIT` (R105) in the run in which `k` reads of STATUS still return BUSY = 1 and the next one returns 0. Log 16. -/
def waitEvents (k : Nat) : List Event :=
  List.replicate k (lineEvent (.rd .status)) ++ [.engine, lineEvent (.rd .status)]

/-- `RUN <mnemonic>` (R105): CMD, then WAIT. -/
def runEvents (i : Instr) (k : Nat) : List Event := cmdEvents i ++ waitEvents k

/-- `ACK` (R105). -/
def ackEvents : List Event := [lineEvent (.wr .status 0x00000006)]

/-- One byte of a `BYTES` line: `WRB b, x` while b is an index of BUF. From b = 0x10000 on the line's offset 0x10000 + b
lies past the block's 128 KiB, so the access is not the block's (R69) and no step of it. Log 20. -/
def byteEvents (b : Nat) (x : Byte) : List Event :=
  if b < Config.bufSize then [lineEvent (.wrb (BitVec.ofNat 16 b) x)] else []

/-- `BYTES <b>, x0, x1, …`: `WRB b, x0`, `WRB b+1, x1`, and so on (R105). -/
def bytesEvents : Nat → List Byte → List Event
  | _, [] => []
  | b, x :: xs => byteEvents b x ++ bytesEvents (b + 1) xs

end Sys2Proof.Machine
end

