-- ==== Sys2Proof/Machine/Step.lean ====
section
/-! DEFINITION. One step of the machine (R74): the platform's reset, one bus access of the host, or the engine's completion step. -/

namespace Sys2Proof.Machine

/-- One step. A completion decodes the command word in flight (R203): a word that is no command completes with its
error, a command runs its meaning. After a model fault no agent takes a step (R236). -/
def step (s : State) : Host.Outcome State Fault Refusal :=
  match nextTurn s with
  | .reset => .next (platformReset (advance s))
  | .stopped f => .fault f
  | .host a => .next (hostAccess a (advance s))
  | .idle => .next (advance s)
  | .complete w =>
    match decodeCmd w with
    | .error e => .next (errorCompletion e (advance s))
    | .ok i => exec i (advance s)

/-- `s` with the command whose word is `w` (its bits from `nbits` up 0) issued and the engine's turn next. Log 11. -/
def State.withFetchWord (s : State) (nbits w : Nat) : State := withCommand (BitVec.ofNat 32 (w % 2 ^ nbits)) s

end Sys2Proof.Machine
end

