-- ==== Sys2Proof/Safety.lean ====
section
/-! DEFINITION. The terms the statements use: what the buffer holds, whose step comes next, the invariant of R38 and R48,
and a run without a model fault (R49). -/

namespace Sys2Proof.Machine

/-- Every byte of BUF[off:off+n] has been written (R40, R237). -/
abbrev State.Written (s : State) (off n : Nat) : Prop := ∀ k, k < n → s.mem.read (off + k) ≠ none

/-- BUF[off:off+len(d)] = d, every byte of it written (R16, R40). -/
abbrev State.Holds (s : State) (off : Nat) (d : List Byte) : Prop :=
  ∀ k, k < d.length → s.mem.read (off + k) = d[k]?

/-- The next step is the engine's completion of the command word `w` (R203). -/
abbrev State.EngineNext (s : State) (w : Word) : Prop :=
  s.fault = none ∧ s.pend = some w ∧ (s.agenda = [] ∨ s.agenda.head? = some .engine)

/-- The next step is the host's bus access `a` (R74). -/
abbrev State.HostNext (s : State) (a : Access) : Prop :=
  s.fault = none ∧ s.agenda.head? = some (.host a)

/-- A naturally aligned access of 8, 16 or 32 bits to the buffer window (R65, R66). -/
abbrev BufferShape (width : Nat) (off : Offset) : Prop :=
  0x10000 ≤ off.toNat ∧
    (width = 8 ∨ (width = 16 ∧ off.toNat % 2 = 0) ∨ (width = 32 ∧ off.toNat % 4 = 0))

/-- A 32-bit access to the register window at a multiple of 4 (R63). -/
abbrev RegisterShape (width : Nat) (off : Offset) : Prop :=
  off.toNat < 0x10000 ∧ width = 32 ∧ off.toNat % 4 = 0

/-- STATUS as R38 allows it: in flight nothing else is set, DONE and ERR exclude each other, ERRCODE ≠ 0 exactly with
ERR, ACCEPT exactly with an accepting REASON. -/
abbrev Status.Legal (t : Status) : Prop :=
  (t.busy = true →
    t.done = false ∧ t.err = false ∧ t.accept = false ∧ t.reason = none ∧ t.errcode = none) ∧
  ¬ (t.done = true ∧ t.err = true) ∧
  (t.errcode ≠ none ↔ t.err = true) ∧
  (t.accept = true ↔ t.reason = some .accFull ∨ t.reason = some .accPseudo)

/-- The invariant of the machine: the buffer's canonical form, R38's invariants, PEND ≠ none exactly while BUSY (R48),
and CMD still the word in flight (R26, R201). -/
abbrev State.Inv (s : State) : Prop :=
  s.mem.wf ∧ s.status.Legal ∧ s.pend.isSome = s.status.busy ∧ (s.pend = none ∨ s.pend = some s.cmd)

/-- A run of `k` steps from `s` ends in `t` with no model fault: the premise R49 has a claim about a run take. -/
abbrev SafeRun (k : Nat) (s t : State) : Prop := core.run k s = .next t ∧ t.fault = none

end Sys2Proof.Machine
end

