-- ==== Sys2Proof/Certificates/Slice0/Obligations.lean ====
section
/-! DEFINITION. The statements for the provers, each from the numbered rules of spec/ its docstring names. -/

open Sys2Proof Sys2Proof.Machine

/-! ### Encoding -/

/-- Command words written out bit by bit from R90 and R95, and five words that are no command (R97 to R100). -/
def Obligations.WrittenOutWordsDecodeAsTheMapSays : Prop :=
  decodeCmd 0b00000000000000000000000000000000 = .ok .nop ∧
  decodeCmd 0b00000000000000000000000000000001 = .ok .csumRecv ∧
  decodeCmd 0b00000000000000000000000000000010 = .ok .csumSend ∧
  decodeCmd 0b00000000000000000000000000000011 = .ok .pseudoSum ∧
  decodeCmd 0b00000000000000000000000000000100 = .ok .encode ∧
  decodeCmd 0b00000000000000000000000000000101 = .ok .decode ∧
  decodeCmd 0b00000000000000000000000000000110 = .error .illegalCmd ∧
  decodeCmd 0b00000000000000000000000000010000 = .error .illegalCmd ∧
  decodeCmd 0b00000000000000000000000000010101 = .error .addrWidth ∧
  decodeCmd 0b00000000000000000000000000010110 = .error .illegalCmd ∧
  decodeCmd 0b10000000000000000000000000000001 = .error .illegalCmd

/-- R96, R101: every 32-bit word is one of the six legal commands, an ADDR_WIDTH word (0x11 to 0x15) or ILLEGAL_CMD. -/
def Obligations.EveryWordIsCommandAddrWidthOrIllegal : Prop :=
  ∀ w : Word, decodeCmd w =
    if w = 0x00000000 then .ok .nop
    else if w = 0x00000001 then .ok .csumRecv
    else if w = 0x00000002 then .ok .csumSend
    else if w = 0x00000003 then .ok .pseudoSum
    else if w = 0x00000004 then .ok .encode
    else if w = 0x00000005 then .ok .decode
    else if 0x11 ≤ w.toNat ∧ w.toNat ≤ 0x15 then .error .addrWidth
    else .error .illegalCmd

/-- Decoder and encoder agree, with every field of R90's format at every value: no bit of a word is dropped, a word is
a command exactly when its fields are well formed and are that command's, and every command decodes from its word. -/
def Obligations.DecodeAndEncodeAgreeOnEveryField : Prop :=
  (∀ f : CmdFields, fieldsOf (encodeFields f) = f) ∧
  (∀ w : Word, encodeFields (fieldsOf w) = w) ∧
  (∀ (f : CmdFields) (i : Instr),
    decodeCmd (encodeFields f) = .ok i ↔ f.wellFormed = true ∧ f = i.fields) ∧
  (∀ i : Instr, i.wellFormed = true → decodeCmd (encode i) = .ok i)

/-- R104's notation, line by line. Every well-formed line is a bus access of a legal shape (R63, R65); `WR` and `RD` are
a 32-bit write and read at the register's offset (R22), `WRB`, `WRH`, `WRW` and `RDB`, `RDH`, `RDW` a write and a read of
8, 16 and 32 bits at 0x10000 + b. R105: `CMD` and `ACK` are their writes, and `BYTES b` writes its k-th byte at b + k; a
byte that would lie past BUF is no access of the block (R69, the model's reading: log 20). -/
def Obligations.WellFormedLinesAreLegalAccesses : Prop :=
  (∀ l : HostLine, l.wellFormed = true →
    match lineAccess l with
    | .read width off => RegisterShape width off ∨ BufferShape width off
    | .write width off _ => RegisterShape width off ∨ BufferShape width off) ∧
  (∀ (r : Reg) (off : Offset),
    (r, off) ∈ [(Reg.ctrl, (0x00000 : Offset)), (.cmd, 0x00004), (.status, 0x00008), (.len, 0x0000C), (.srcIp, 0x00010),
      (.dstIp, 0x00014), (.ports, 0x00018), (.result, 0x0001C), (.rxPorts, 0x00020), (.rxFields, 0x00024),
      (.outLen, 0x00028)] →
    (∀ v, lineAccess (.wr r v) = .write 32 off v) ∧ lineAccess (.rd r) = .read 32 off) ∧
  (∀ (b : Half) (off : Offset), off.toNat = 0x10000 + b.toNat →
    (∀ v, lineAccess (.wrb b v) = .write 8 off (BitVec.ofNat 32 v.toNat)) ∧
    (∀ v, lineAccess (.wrh b v) = .write 16 off (BitVec.ofNat 32 v.toNat)) ∧
    (∀ v, lineAccess (.wrw b v) = .write 32 off v) ∧
    lineAccess (.rdb b) = .read 8 off ∧ lineAccess (.rdh b) = .read 16 off ∧ lineAccess (.rdw b) = .read 32 off) ∧
  (∀ i : Instr, cmdEvents i = [.host (.write 32 0x00004 (encode i))]) ∧
  ackEvents = [.host (.write 32 0x00008 0x00000006)] ∧
  (∀ (b : Nat) (xs : List Byte),
    (bytesEvents b xs).length = min xs.length (0x10000 - b) ∧
    ∀ (k : Nat) (x : Byte), xs[k]? = some x → b + k < 0x10000 →
      (bytesEvents b xs)[k]? = some (.host (.write 8 (BitVec.ofNat 17 (0x10000 + b + k)) (BitVec.ofNat 32 x.toNat))))

/-! ### The step -/

/-- A step runs the decoded instruction (R203): what the step adds is only that this turn is no longer to come. -/
def Obligations.StepRunsTheDecodedCommand : Prop :=
  ∀ (s : State) (w : Word) (i : Instr), s.EngineNext w → decodeCmd w = .ok i → i.wellFormed = true →
    step s = exec i { s with agenda := s.agenda.tail }

/-- R203: the engine's step is enabled only when a command is in flight; without one nothing changes. -/
def Obligations.EngineDoesNothingWithoutACommand : Prop :=
  ∀ s : State, s.fault = none → s.pend = none → s.agenda = [] ∨ s.agenda.head? = some .engine →
    step s = .next { s with agenda := s.agenda.tail }

/-- R71, R74: a host access is performed whole in one step. -/
def Obligations.StepPerformsTheHostAccess : Prop :=
  ∀ (s : State) (a : Access), s.HostNext a → step s = .next (hostAccess a { s with agenda := s.agenda.tail })

/-- R236: after a model fault no agent takes a further step (the reset input is no agent: log 3). -/
def Obligations.NoAgentStepsAfterAModelFault : Prop :=
  ∀ (s : State) (f : Fault), s.fault = some f → s.agenda.head? ≠ some .reset → step s = .fault f

/-- R263, R49: no step clears a marked fault, a reset included. -/
def Obligations.NoStepClearsAModelFault : Prop :=
  ∀ (s t : State) (f : Fault), step s = .next t → s.fault = some f → t.fault = some f

/-- R49: a run that ends without a model fault had none on the way. -/
def Obligations.SafeRunIsSafeThroughout : Prop :=
  ∀ (j k : Nat) (s t : State), j ≤ k → SafeRun k s t → ∃ u, SafeRun j s u ∧ SafeRun (k - j) u t

/-- R203, R204: the completion step ends the command in flight, or marks UNINIT_READ and changes nothing else. -/
def Obligations.CompletionStepEndsTheCommand : Prop :=
  ∀ (s : State) (w : Word), s.EngineNext w → ∃ t, step s = .next t ∧
    ((t.pend = none ∧ t.status.busy = false ∧ t.fault = none) ∨
      t = { s with agenda := s.agenda.tail, fault := some .uninitRead })

/-- R227: a completion sets exactly one of DONE and ERR. -/
def Obligations.CompletionSetsExactlyOneOfDoneAndErr : Prop :=
  ∀ (s t : State) (w : Word), s.EngineNext w → s.status = statusIssued → step s = .next t → t.fault = none →
    t.status.busy = false ∧ t.pend = none ∧ t.status.done = !t.status.err

/-- The invariant, headline: R38's invariants, R48, R26 and the buffer's canonical form are kept by every step. -/
def Obligations.EveryStepKeepsTheInvariant : Prop :=
  ∀ s t : State, s.Inv → step s = .next t → t.Inv

/-- The invariant holds in the state after reset (R38, R48, R52). -/
def Obligations.ResetStateMeetsTheInvariant : Prop := State.reset.Inv

/-! ### Reset -/

/-- R52: the state after reset, and the state a later reset of any state leaves: every register reads 0, no command is in
flight, every mark is false, IRQ is 0; FAULT is not reset (R263). -/
def Obligations.ResetLeavesEveryRegisterZero : Prop :=
  ∀ s t : State, t = State.reset ∨ t = platformReset s →
    (∀ r : Reg, readReg r t = 0) ∧ t.status = Status.zero ∧ t.pend = none ∧
    (∀ i, t.mem.read i = none) ∧ t.irq = false ∧ (platformReset s).fault = s.fault

/-- R260, R261, R263: the reset input is always taken, also while a command is in flight, which it abandons: every field
of the block is then as State.reset has it, but for FAULT; what is not the block's stays (log 3). -/
def Obligations.ResetAbandonsTheCommandInFlight : Prop :=
  ∀ s : State, s.agenda.head? = some .reset →
    step s = .next { State.reset with
      fault := s.fault, agenda := s.agenda.tail, hostData := s.hostData, draws := s.draws }

/-! ### Results of the commands, each with its completion -/

/-- R205: NOP's word is 0x00000000; it reads no operand, writes no output register and no buffer byte, and completes. -/
def Obligations.NopOnlyCompletes : Prop :=
  decodeCmd 0x00000000 = .ok .nop ∧
  ∀ s : State, exec .nop s =
    .next { s with status := { s.status with done := true, busy := false }, pend := none }

/-- R140, R142: CSUM_RECV puts receiveChecksum(BUF[0:LEN], SRC_IP, DST_IP) into RESULT. -/
def Obligations.CsumRecvGivesReceiveChecksum : Prop :=
  decodeCmd 0x00000001 = .ok .csumRecv ∧
  ∀ (s : State) (d : List Byte), d.length = s.len.toNat → 8 ≤ d.length → s.Holds 0 d →
    exec .csumRecv s = .next { s with
      result := (0 : Half) ++ receiveChecksum d s.srcIp s.dstIp
      rxPorts := 0, rxFields := 0, outLen := 0
      status := { s.status with done := true, busy := false }, pend := none }

/-- R145: CSUM_SEND puts sendChecksum(BUF[0:LEN], SRC_IP, DST_IP) into RESULT. -/
def Obligations.CsumSendGivesSendChecksum : Prop :=
  decodeCmd 0x00000002 = .ok .csumSend ∧
  ∀ (s : State) (d : List Byte), d.length = s.len.toNat → 8 ≤ d.length → s.Holds 0 d →
    exec .csumSend s = .next { s with
      result := (0 : Half) ++ sendChecksum d s.srcIp s.dstIp
      rxPorts := 0, rxFields := 0, outLen := 0
      status := { s.status with done := true, busy := false }, pend := none }

/-- R150: PSEUDO_SUM puts pseudoHeaderSum(BUF[0:LEN], SRC_IP, DST_IP) into RESULT. -/
def Obligations.PseudoSumGivesPseudoHeaderSum : Prop :=
  decodeCmd 0x00000003 = .ok .pseudoSum ∧
  ∀ (s : State) (d : List Byte), d.length = s.len.toNat → 8 ≤ d.length → s.Holds 0 d →
    exec .pseudoSum s = .next { s with
      result := (0 : Half) ++ pseudoHeaderSum d s.srcIp s.dstIp
      rxPorts := 0, rxFields := 0, outLen := 0
      status := { s.status with done := true, busy := false }, pend := none }

/-- R180, R181: ENCODE builds the datagram of the payload BUF[8:8+LEN] in place: the buffer then holds it, no byte from
8 on is changed, RESULT is its checksum and OUT_LEN its length. -/
def Obligations.EncodeBuildsTheDatagramInPlace : Prop :=
  decodeCmd 0x00000004 = .ok .encode ∧
  ∀ (s : State) (payload : List Byte), payload.length = s.len.toNat → payload.length ≤ 65527 → s.Holds 8 payload →
    ∃ t, exec .encode s = .next t ∧
      t.Holds 0 (encodeDatagram payload (s.ports.extractLsb' 16 16) (s.ports.extractLsb' 0 16) s.srcIp s.dstIp) ∧
      (∀ a, 8 ≤ a → t.mem.read a = s.mem.read a) ∧
      t = { s with
        mem := t.mem
        result := (0 : Half) ++
          be16 (encodeDatagram payload (s.ports.extractLsb' 16 16) (s.ports.extractLsb' 0 16) s.srcIp s.dstIp) 6
        rxPorts := 0, rxFields := 0, outLen := BitVec.ofNat 16 (8 + payload.length)
        status := { s.status with done := true, busy := false }, pend := none }

/-- R185, R187, R171 to R176: DECODE's verdict and reports. A datagram shorter than 8 bytes is REJ_SHORT and no byte is
read; else a wrong port is REJ_PORT, then the full check modulo 2^16, then the fallback. Every verdict sets DONE; no
buffer byte is written. -/
def Obligations.DecodeReportsTheVerdict : Prop :=
  decodeCmd 0x00000005 = .ok .decode ∧
  (∀ s : State, s.len.toNat < 8 →
    exec .decode s = .next { s with
      result := 0, rxPorts := 0, rxFields := 0, outLen := 0
      status := { s.status with done := true, busy := false, accept := false, reason := some .rejShort }
      pend := none }) ∧
  (∀ (s : State) (raw : List Byte) (v : Verdict), raw.length = s.len.toNat → 8 ≤ raw.length → s.Holds 0 raw →
    v = (if be16 raw 2 ≠ s.ports.extractLsb' 0 16 then .rejPort
      else if receiveChecksum raw s.srcIp s.dstIp + be16 raw 6 = 0xFFFF then .accFull
      else if pseudoHeaderSum raw s.srcIp s.dstIp = be16 raw 6 then .accPseudo
      else .rejCsum) →
    exec .decode s = .next { s with
      rxPorts := be16 raw 0 ++ be16 raw 2
      rxFields := be16 raw 4 ++ be16 raw 6
      result := if v = .rejPort then 0
        else pseudoHeaderSum raw s.srcIp s.dstIp ++ receiveChecksum raw s.srcIp s.dstIp
      outLen := if v = .accFull ∨ v = .accPseudo then BitVec.ofNat 16 (raw.length - 8) else 0
      status := { s.status with
        done := true, busy := false, accept := decide (v = .accFull ∨ v = .accPseudo), reason := some v }
      pend := none })

/-! ### Errors and model faults -/

/-- R222: an error completion writes STATUS and ends the command; no output register, no operand, no buffer byte. -/
def Obligations.ErrorCompletionWritesStatusOnly : Prop :=
  ∀ (e : CmdError) (s : State), errorCompletion e s = { s with
    status := { busy := false, done := false, err := true, accept := false, reason := none, errcode := some e }
    pend := none }

/-- R223, R97, R98, R100: a word with a reserved bit, with a reserved opcode, or 0x10, completes with ILLEGAL_CMD. -/
def Obligations.ReservedWordsCompleteWithIllegalCmd : Prop :=
  errorCode .illegalCmd = 1 ∧
  ∀ (s : State) (w : Word), s.EngineNext w →
    w.extractLsb' 5 27 ≠ 0 ∨ 6 ≤ (w.extractLsb' 0 4).toNat ∨ w = 0x00000010 →
    step s = .next (errorCompletion .illegalCmd { s with agenda := s.agenda.tail })

/-- R224: the words 0x11 to 0x15 complete with ADDR_WIDTH, IPV6_MODE being Refuse, and perform nothing. -/
def Obligations.SixteenByteAddressWordsCompleteWithAddrWidth : Prop :=
  errorCode .addrWidth = 2 ∧
  ∀ (s : State) (w : Word), s.EngineNext w → 0x00000011 ≤ w.toNat → w.toNat ≤ 0x00000015 →
    step s = .next (errorCompletion .addrWidth { s with agenda := s.agenda.tail })

/-- R225: LEN_RANGE for a checksum command with LEN < 8 and for ENCODE with LEN > 65527; DECODE never raises it. -/
def Obligations.LenRangeIsRaisedInTwoCases : Prop :=
  errorCode .lenRange = 3 ∧
  (∀ (s : State) (i : Instr), i = .csumRecv ∨ i = .csumSend ∨ i = .pseudoSum → s.len.toNat < 8 →
    exec i s = .next (errorCompletion .lenRange s)) ∧
  (∀ s : State, 65527 < s.len.toNat → exec .encode s = .next (errorCompletion .lenRange s)) ∧
  (∀ s t : State, exec .decode s = .next t → t.status.err = s.status.err ∧ t.status.errcode = s.status.errcode)

/-- R226: the first error in the order ILLEGAL_CMD, ADDR_WIDTH, LEN_RANGE is raised, before any buffer byte is read (the
state after it carries no model fault); where none applies, none is raised. -/
def Obligations.FirstErrorInPriorityIsRaised : Prop :=
  ∀ (s : State) (w : Word) (first : Option CmdError), s.EngineNext w →
    first = (if w.extractLsb' 5 27 ≠ 0 ∨ 6 ≤ (w.extractLsb' 0 4).toNat ∨ w = 0x00000010 then some .illegalCmd
      else if w.getLsbD 4 then some .addrWidth
      else if ((w = 1 ∨ w = 2 ∨ w = 3) ∧ s.len.toNat < 8) ∨ (w = 4 ∧ 65527 < s.len.toNat) then some .lenRange
      else none) →
    (∀ e, first = some e →
      step s = .next (errorCompletion e { s with agenda := s.agenda.tail })) ∧
    (first = none → ∀ t, step s = .next t → t.status.err = s.status.err ∧ t.status.errcode = s.status.errcode)

/-- R237: a command or a host access that reads an unwritten buffer byte marks UNINIT_READ and has no other effect. -/
def Obligations.UnwrittenBytesRaiseUninitRead : Prop :=
  (∀ (s : State) (i : Instr), i = .csumRecv ∨ i = .csumSend ∨ i = .pseudoSum ∨ i = .decode →
    8 ≤ s.len.toNat → ¬ s.Written 0 s.len.toNat → exec i s = .next { s with fault := some .uninitRead }) ∧
  (∀ s : State, s.len.toNat ≤ 65527 → ¬ s.Written 8 s.len.toNat →
    exec .encode s = .next { s with fault := some .uninitRead }) ∧
  (∀ (s : State) (width : Nat) (off : Offset), BufferShape width off →
    ¬ s.Written (off.toNat - 0x10000) (width / 8) →
    hostAccess (.read width off) s = { s with fault := some .uninitRead })

/-! ### Frames -/

/-- The frame of the commands that store nothing, on every path: no buffer byte, no operand register, not CTRL, not CMD
(R140, R145, R150, R185, R205, R222). -/
def Obligations.ReadingCommandsKeepBufferAndOperands : Prop :=
  ∀ (i : Instr) (s t : State), i ≠ .encode → exec i s = .next t →
    (∀ a, t.mem.read a = s.mem.read a) ∧ t.mem = s.mem ∧
    t.irqEn = s.irqEn ∧ t.cmd = s.cmd ∧ t.len = s.len ∧ t.srcIp = s.srcIp ∧ t.dstIp = s.dstIp ∧
    t.ports = s.ports ∧ t.agenda = s.agenda ∧ t.hostData = s.hostData ∧ t.draws = s.draws

/-- The frame of ENCODE, on every path: only BUF[0:8] is stored to; no operand register, not CTRL, not CMD (R180, R181). -/
def Obligations.EncodeKeepsAllButTheHeader : Prop :=
  ∀ s t : State, exec .encode s = .next t →
    (∀ a, 8 ≤ a → t.mem.read a = s.mem.read a) ∧
    t.irqEn = s.irqEn ∧ t.cmd = s.cmd ∧ t.len = s.len ∧ t.srcIp = s.srcIp ∧ t.dstIp = s.dstIp ∧
    t.ports = s.ports ∧ t.agenda = s.agenda ∧ t.hostData = s.hostData ∧ t.draws = s.draws

/-- The frame of STATUS, PEND, FAULT and the output registers, on every path of every command: a model fault changes
none but FAULT; an error changes STATUS and PEND alone; NOP changes no output register; a success sets DONE and clears
BUSY and PEND, and only DECODE writes ACCEPT and REASON. -/
def Obligations.CommandsChangeStatusOnlyAsCompleted : Prop :=
  ∀ (i : Instr) (s t : State), exec i s = .next t →
    t = { s with fault := some .uninitRead } ∨
    t = errorCompletion .lenRange s ∨
    (t.fault = s.fault ∧ t.pend = none ∧
      (i = .nop → t.result = s.result ∧ t.rxPorts = s.rxPorts ∧ t.rxFields = s.rxFields ∧ t.outLen = s.outLen) ∧
      (i ≠ .decode → t.status = { s.status with done := true, busy := false }) ∧
      (i = .decode → t.status =
        { s.status with done := true, busy := false, accept := t.status.accept, reason := t.status.reason }))

/-! ### The checksum functions -/

/-- R121: each pass of the fold makes x smaller, its loop ends, and its result is 0 only for 0 and else the one value in
1 to 0xFFFF congruent to x modulo 0xFFFF. -/
def Obligations.FoldIsTheResidueModulo0xFFFF : Prop :=
  (∀ x : Nat, x < 2 ^ 32 →
    (0xFFFF < x → x % 0x10000 + x / 0x10000 < x ∧ fold x = fold (x % 0x10000 + x / 0x10000)) ∧
    (x ≤ 0xFFFF → (fold x).toNat = x) ∧
    (fold x = 0 ↔ x = 0) ∧
    (fold x).toNat % 0xFFFF = x % 0xFFFF ∧
    (∀ y : Half, x ≠ 0 → y ≠ 0 → y.toNat % 0xFFFF = x % 0xFFFF → y = fold x)) ∧
  fold 0 = 0x0000 ∧ fold 0xFFFF = 0xFFFF ∧ fold 0x10000 = 0x0001 ∧ fold 0x1298F = 0x2990 ∧
  fold 0x1FFFE = 0xFFFF ∧ fold 0x7FFE8001 = 0xFFFF

/-- R122: fold1 is the single fold truncated to 16 bits, and it differs from fold only where that fold carries out. -/
def Obligations.SingleFoldDropsItsCarry : Prop :=
  (∀ x : Nat, x < 2 ^ 32 →
    (fold1 x).toNat = (x % 65536 + x / 65536) % 65536 ∧
    (fold1 x ≠ fold x → 0xFFFF < x % 65536 + x / 65536)) ∧
  fold1 0x0005000C = 0x0011 ∧ fold1 0x0004FFFE = 0x0002 ∧ fold 0x0004FFFE = 0x0003 ∧
  fold1 0x0001FFFF = 0x0000 ∧ fold 0x0001FFFF = 0x0001

/-- R123: which pseudo-header sums lose a carry. -/
def Obligations.DroppedCarryHappensExactlyThere : Prop :=
  (∀ (d : List Byte) (s t : Word),
    pseudoAddends d s t ≤ 0x5FFFA ∧ pseudoAddends d s t / 65536 ≤ 5 ∧
    (pseudoHeaderSum d s t ≠ fold (pseudoAddends d s t) ↔
      0x10000 - pseudoAddends d s t / 65536 ≤ pseudoAddends d s t % 65536) ∧
    (pseudoAddends d s t < 0x10000 → pseudoHeaderSum d s t = fold (pseudoAddends d s t))) ∧
  (∀ d : List Byte, be16 d 4 = 0xFFF2 → pseudoHeaderSum d 0xFFFFFFFF 0xFFFFFFFE = 0x0002)

/-- R124: a datagram of at most 65535 bytes has at most 32767 words, and their sum fits the 32-bit accumulator. -/
def Obligations.AccumulatorCannotOverflow : Prop :=
  ∀ d : List Byte, d.length ≤ 65535 →
    (words d).length ≤ 32767 ∧ sumWords (words d) ≤ 0x7FFE8001 ∧ sumWords (words d) % 2 ^ 32 = sumWords (words d)

/-- R125: excising bytes 6 and 7 gives the sum of the words with those two bytes zeroed, and the pad of an odd datagram
makes its last byte the high byte of the last word. So the sum is that of the bytes themselves, but for bytes 6 and 7:
one at an even offset counts 256 times, one at an odd offset once. -/
def Obligations.ExcisedWordsSumAsZeroedOnes : Prop :=
  (∀ d : List Byte, 8 ≤ d.length →
    sumWords (words d) = ((List.range d.length).map fun k =>
      if k = 6 ∨ k = 7 then 0 else if k % 2 = 0 then (byteAt d k).toNat * 256 else (byteAt d k).toNat).sum) ∧
  (∀ d : List Byte, 8 ≤ d.length →
    sumWords (words d) = sumWords (pairWords (padEven ((d.set 6 0).set 7 0)))) ∧
  (∀ (d : List Byte) (b : Byte), 8 ≤ d.length → d.length % 2 = 0 →
    words (d ++ [b]) = words d ++ [b ++ (0 : Byte)])

/-- R126: pseudoHeaderSum is the once-folded sum of bytes 4 and 5, the four address halves and 0x11, and of nothing else. -/
def Obligations.PseudoHeaderSumAddsTheSixWords : Prop :=
  (∀ (d : List Byte) (s t : Word) (x : Nat), 8 ≤ d.length →
    x = (byteAt d 4).toNat * 256 + (byteAt d 5).toNat + s.toNat / 65536 + s.toNat % 65536 + t.toNat / 65536
      + t.toNat % 65536 + 17 →
    (pseudoHeaderSum d s t).toNat = (x % 65536 + x / 65536) % 65536) ∧
  pseudoHeaderSum [0xE6, 0x55, 0x1F, 0x90, 0x00, 0x0C, 0xFE, 0x1F, 0x74, 0x65, 0x73, 0x74] 0x7F000001 0x7F000001
    = 0xFE1F

/-- R127, R128: receiveChecksum of a datagram of at most 65535 bytes is the one value from 1 to 0xFFFF that is congruent,
modulo 0xFFFF, to the sum of its words and its pseudo-header sum. It is never 0; the substitution needs every word zero
and a pseudo-header sum that lost a carry. R130: the source's vector, step by step. -/
def Obligations.ReceiveChecksumIsNeverZero : Prop :=
  (∀ (d : List Byte) (s t : Word), 8 ≤ d.length → d.length ≤ 65535 →
    1 ≤ (receiveChecksum d s t).toNat ∧ (receiveChecksum d s t).toNat ≤ 0xFFFF ∧
    (receiveChecksum d s t).toNat % 0xFFFF = (sumWords (words d) + (pseudoHeaderSum d s t).toNat) % 0xFFFF ∧
    ∀ y : Half, y ≠ 0 → y.toNat % 0xFFFF = (sumWords (words d) + (pseudoHeaderSum d s t).toNat) % 0xFFFF →
      receiveChecksum d s t = y) ∧
  (∀ (d : List Byte) (s t : Word), receiveChecksum d s t ≠ 0) ∧
  (∀ (d : List Byte) (s t : Word), d.length ≤ 65535 →
    fold ((fold (sumWords (words d))).toNat + (pseudoHeaderSum d s t).toNat) = 0 →
    (∀ w ∈ words d, w = 0) ∧ pseudoHeaderSum d s t = 0 ∧ 0x10000 ≤ pseudoAddends d s t) ∧
  receiveChecksum [0, 0, 0, 0, 0, 0, 0, 0] 0xFFFFFFEF 0x00000000 = 0xFFFF ∧
  (∀ (d : List Byte) (s t : Word), d = [0xA0, 0x8F, 0x26, 0x94, 0x00, 0x0A, 0x00, 0x00, 0x62, 0x62] →
    s = 0x9801331B → t = 0x980E5E4B →
    words d = [0xA08F, 0x2694, 0x000A, 0x6262] ∧ sumWords (words d) = 0x1298F ∧ fold 0x1298F = 0x2990 ∧
    pseudoAddends d s t = 0x1C190 ∧ pseudoHeaderSum d s t = 0xC191 ∧ fold (0x2990 + 0xC191) = 0xEB21 ∧
    receiveChecksum d s t = 0xEB21)

/-- R129: receiveChecksum is symmetric in the addresses and does not depend on bytes 6 and 7. -/
def Obligations.ReceiveChecksumIgnoresOrderAndOwnField : Prop :=
  (∀ (d : List Byte) (s t : Word), receiveChecksum d s t = receiveChecksum d t s) ∧
  (∀ (d d' : List Byte) (s t : Word), d'.length = d.length →
    (∀ k, k ≠ 6 → k ≠ 7 → d'[k]? = d[k]?) → receiveChecksum d' s t = receiveChecksum d s t)

/-- R154: the complement law. -/
def Obligations.SendChecksumIsTheComplement : Prop :=
  ∀ (d : List Byte) (s t : Word), 8 ≤ d.length →
    (sendChecksum d s t).toNat = 0xFFFF - (receiveChecksum d s t).toNat

/-- R155: the self-verification law, with the addition modulo 2^16 and with the one's-complement addition. -/
def Obligations.DatagramVerifiesItself : Prop :=
  ∀ (d d' : List Byte) (s t : Word), 8 ≤ d.length → d'.length = d.length →
    (∀ k, k ≠ 6 → k ≠ 7 → d'[k]? = d[k]?) → be16 d' 6 = sendChecksum d s t →
    ((receiveChecksum d' s t).toNat + (be16 d' 6).toNat) % 0x10000 = 0xFFFF ∧
    fold ((receiveChecksum d' s t).toNat + (be16 d' 6).toNat) = 0xFFFF

/-! ### The codec -/

/-- R163, R160, R161: the layout of an encoded datagram; its Length field is always 8 + n; its checksum is 0x0000 exactly
when receiveChecksum is 0xFFFF. -/
def Obligations.EncodedDatagramLayout : Prop :=
  ∀ (payload : List Byte) (sp dp : Half) (s t : Word) (d : List Byte), payload.length ≤ 65527 →
    d = encodeDatagram payload sp dp s t →
    d.length = 8 + payload.length ∧ be16 d 0 = sp ∧ be16 d 2 = dp ∧ (be16 d 4).toNat = 8 + payload.length ∧
    be16 d 6 = sendChecksum d s t ∧ d.drop 8 = payload ∧
    (be16 d 6 = 0x0000 ↔ receiveChecksum d s t = 0xFFFF)

/-- R191, headline: decoding an encoded datagram accepts it by the full check and recovers source port and payload; with
the addresses swapped it is accepted too. -/
def Obligations.DecodingAnEncodedDatagramRecoversIt : Prop :=
  ∀ (payload : List Byte) (sp dp : Half) (s t : Word) (d : List Byte), payload.length ≤ 65527 →
    d = encodeDatagram payload sp dp s t →
    (∃ (h : HeaderFields) (r p : Half),
      decodeDatagram d s dp t = .accFull h r p payload ∧ h.sport = sp ∧ h.dport = dp) ∧
    accepting (verdictOf (decodeDatagram d t dp s)) = true

/-- R192: a DECODE accepts only when the destination port is PORTS.DPORT and one of the two checksum checks passes. -/
def Obligations.OnlyMatchingVerifiedDatagramsAreAccepted : Prop :=
  ∀ s t : State, exec .decode s = .next t → s.status.accept = false → t.status.accept = true →
    ∃ raw : List Byte, raw.length = s.len.toNat ∧ 8 ≤ raw.length ∧ s.Holds 0 raw ∧
      be16 raw 2 = s.ports.extractLsb' 0 16 ∧
      (receiveChecksum raw s.srcIp s.dstIp + be16 raw 6 = 0xFFFF ∨
        pseudoHeaderSum raw s.srcIp s.dstIp = be16 raw 6)

/-- R191 and R211 on the machine: ENCODE, then LEN <- OUT_LEN and DECODE on the same operands, accepts by the full check,
reports the source port, and delivers the payload, which stands in the buffer where it stood. -/
def Obligations.EncodeThenDecodeDeliversThePayload : Prop :=
  ∀ s : State, s.len.toNat ≤ 65527 → s.Written 8 s.len.toNat →
    ∃ t u, exec .encode s = .next t ∧ exec .decode { t with len := t.outLen } = .next u ∧
      u.status.accept = true ∧ u.status.reason = some .accFull ∧ u.status.done = true ∧
      u.rxPorts = s.ports ∧ u.outLen = s.len ∧ (∀ a, 8 ≤ a → u.mem.read a = s.mem.read a)

/-- R211: ENCODE, then LEN <- OUT_LEN and CSUM_RECV: the two results sum to 0xFFFF modulo 2^16. -/
def Obligations.EncodeThenCsumRecvSumsToAllOnes : Prop :=
  ∀ s : State, s.len.toNat ≤ 65527 → s.Written 8 s.len.toNat →
    ∃ t u, exec .encode s = .next t ∧ exec .csumRecv { t with len := t.outLen } = .next u ∧
      (u.result.toNat + t.result.toNat) % 0x10000 = 0xFFFF

/-! ### The host port -/

/-- R201: a write of `w` to CMD while BUSY = 0 issues it, without decoding it; while BUSY = 1 it is a hazard. -/
def Obligations.CmdWriteIssuesTheCommand : Prop :=
  ∀ (s : State) (w : Word),
    (s.status.busy = false → hostAccess (.write 32 0x00004 w) s = { s with
      cmd := w, pend := some w
      status := { busy := true, done := false, err := false, accept := false, reason := none, errcode := none } }) ∧
    (s.status.busy = true → hostAccess (.write 32 0x00004 w) s = { s with fault := some .hazardWriteBusy })

/-- R270: the host writes that are a hazard in flight, and those that are allowed. A buffer write counts here with the
shapes R66 gives; one of another shape is HOST_BUS_ERROR by the model's choice (log 7, DESIGN CHOICE). -/
def Obligations.OperandWritesInFlightAreHazards : Prop :=
  ∀ s : State, s.status.busy = true →
    (∀ (off : Offset) (v : Word), off ∈ [0x00004, 0x0000C, 0x00010, 0x00014, 0x00018] →
      hostAccess (.write 32 off v) s = { s with fault := some .hazardWriteBusy }) ∧
    (∀ (width : Nat) (off : Offset) (v : Word), BufferShape width off →
      hostAccess (.write width off v) s = { s with fault := some .hazardWriteBusy }) ∧
    (∀ (off : Offset) (v : Word), off = 0x00000 ∨ off = 0x00008 →
      (hostAccess (.write 32 off v) s).fault = s.fault) ∧
    (∀ (off : Offset) (v : Word), RegisterShape 32 off → 0x0001C ≤ off.toNat →
      hostAccess (.write 32 off v) s = s)

/-- R271: in flight, a host read of an output register or of written buffer bytes returns any value, a fresh draw; an
unwritten byte still raises UNINIT_READ. The value is the free value `Config.freeWord`, of which nothing is known. -/
def Obligations.OutputReadsInFlightAreFreshDraws : Prop :=
  ∀ s : State, s.status.busy = true →
    (∀ off : Offset, off ∈ [0x0001C, 0x00020, 0x00024, 0x00028] →
      hostAccess (.read 32 off) s =
        { s with hostData := some (Config.freeWord s.draws), draws := s.draws + 1 }) ∧
    (∀ (width : Nat) (off : Offset), BufferShape width off → s.Written (off.toNat - 0x10000) (width / 8) →
      hostAccess (.read width off) s = { s with
        hostData := some (BitVec.ofNat 32 ((Config.freeWord s.draws).toNat % 2 ^ width)), draws := s.draws + 1 }) ∧
    (∀ (width : Nat) (off : Offset), BufferShape width off → ¬ s.Written (off.toNat - 0x10000) (width / 8) →
      hostAccess (.read width off) s = { s with fault := some .uninitRead })

/-- R207: a write to STATUS clears DONE by bit [1], ERR and ERRCODE by bit [2], and changes nothing else, at any time. -/
def Obligations.StatusWriteClearsDoneAndErr : Prop :=
  (∀ (s : State) (v : Word), hostAccess (.write 32 0x00008 v) s = { s with
    status := { s.status with
      done := if v.getLsbD 1 then false else s.status.done
      err := if v.getLsbD 2 then false else s.status.err
      errcode := if v.getLsbD 2 then none else s.status.errcode } }) ∧
  (∀ (s : State) (v : Word), s.status.Legal → s.status.busy = true → hostAccess (.write 32 0x00008 v) s = s)

/-- R208: a write to CTRL sets IRQ_EN from bit [0], at any time. -/
def Obligations.CtrlWriteSetsIrqEnable : Prop :=
  ∀ (s : State) (v : Word), hostAccess (.write 32 0x00000 v) s = { s with irqEn := v.getLsbD 0 }

/-- R209: operand writes store while BUSY = 0, LEN its low 16 bits; writes to the output registers are ignored always. -/
def Obligations.OperandWritesStoreWhenNotBusy : Prop :=
  (∀ (s : State) (v : Word), s.status.busy = false →
    hostAccess (.write 32 0x0000C v) s = { s with len := BitVec.ofNat 16 v.toNat } ∧
    hostAccess (.write 32 0x00010 v) s = { s with srcIp := v } ∧
    hostAccess (.write 32 0x00014 v) s = { s with dstIp := v } ∧
    hostAccess (.write 32 0x00018 v) s = { s with ports := v }) ∧
  (∀ (s : State) (off : Offset) (v : Word), off ∈ [0x0001C, 0x00020, 0x00024, 0x00028] →
    hostAccess (.write 32 off v) s = s)

/-- R210: a host read of a register returns its current value, reserved bits 0, but for the output registers in flight,
which return any value (R271). -/
def Obligations.RegisterReadsReturnCurrentValues : Prop :=
  (∀ s : State,
    hostAccess (.read 32 0x00000) s = { s with hostData := some (if s.irqEn then 1 else 0) } ∧
    hostAccess (.read 32 0x00004) s = { s with hostData := some s.cmd } ∧
    hostAccess (.read 32 0x00008) s = { s with hostData := some (statusWord s.status) } ∧
    hostAccess (.read 32 0x0000C) s = { s with hostData := some (BitVec.ofNat 32 s.len.toNat) } ∧
    hostAccess (.read 32 0x00010) s = { s with hostData := some s.srcIp } ∧
    hostAccess (.read 32 0x00014) s = { s with hostData := some s.dstIp } ∧
    hostAccess (.read 32 0x00018) s = { s with hostData := some s.ports }) ∧
  (∀ (s : State) (off : Offset) (v : Word),
    (off = 0x0001C ∧ v = s.result) ∨ (off = 0x00020 ∧ v = s.rxPorts) ∨ (off = 0x00024 ∧ v = s.rxFields) ∨
      (off = 0x00028 ∧ v = BitVec.ofNat 32 s.outLen.toNat) →
    hostAccess (.read 32 off) s =
      if s.status.busy then { s with hostData := some (Config.freeWord s.draws), draws := s.draws + 1 }
      else { s with hostData := some v })

/-- R32 to R38: the bits of STATUS as read, with each verdict's code in REASON (R36) and each error's in ERRCODE (R37,
R220); bits [7] and [31:12] are 0. -/
def Obligations.StatusReadsWithItsBitsInPlace : Prop :=
  ∀ t : Status,
    (statusWord t).getLsbD 0 = t.busy ∧ (statusWord t).getLsbD 1 = t.done ∧ (statusWord t).getLsbD 2 = t.err ∧
    (statusWord t).getLsbD 3 = t.accept ∧
    (statusWord t).extractLsb' 4 3 =
      (if t.reason = some .accFull then 1
      else if t.reason = some .accPseudo then 2
      else if t.reason = some .rejShort then 3
      else if t.reason = some .rejPort then 4
      else if t.reason = some .rejCsum then 5
      else 0) ∧
    (statusWord t).getLsbD 7 = false ∧
    (statusWord t).extractLsb' 8 4 =
      (if t.errcode = some .illegalCmd then 1
      else if t.errcode = some .addrWidth then 2
      else if t.errcode = some .lenRange then 3
      else 0) ∧
    (statusWord t).extractLsb' 12 20 = 0

/-- R64: a reserved offset of the register window reads 0 and ignores a write. -/
def Obligations.ReservedOffsetsReadZeroAndIgnoreWrites : Prop :=
  ∀ (s : State) (off : Offset) (v : Word), RegisterShape 32 off → 0x0002C ≤ off.toNat →
    hostAccess (.read 32 off) s = { s with hostData := some 0x00000000 } ∧ hostAccess (.write 32 off v) s = s

/-- Every access of another width or alignment marks HOST_BUS_ERROR (R63, R67) and changes nothing else. For a write of
such a shape to the buffer window while BUSY = 1, which R270 calls HAZARD_WRITE_BUSY, the reason marked is the model's
choice: the shape is checked first (log 7, DESIGN CHOICE). -/
def Obligations.IllegalShapesAreHostBusErrors : Prop :=
  ∀ (s : State) (width : Nat) (off : Offset) (v : Word), ¬ RegisterShape width off → ¬ BufferShape width off →
    hostAccess (.read width off) s = { s with fault := some .hostBusError } ∧
    hostAccess (.write width off v) s = { s with fault := some .hostBusError }

/-- R65: what a host read of written buffer bytes returns while no command is in flight, the lowest offset most
significant. -/
def Obligations.BufferReadsAreBigEndian : Prop :=
  ∀ (s : State) (width : Nat) (off : Offset) (d : List Byte), s.status.busy = false → BufferShape width off →
    d.length = width / 8 → s.Holds (off.toNat - 0x10000) d →
    hostAccess (.read width off) s = { s with hostData := some (BitVec.ofNat 32 (
      if width = 8 then (byteAt d 0).toNat
      else if width = 16 then (byteAt d 0).toNat * 256 + (byteAt d 1).toNat
      else (byteAt d 0).toNat * 16777216 + (byteAt d 1).toNat * 65536 + (byteAt d 2).toNat * 256 + (byteAt d 3).toNat)) }

/-- R66: a host write of the buffer stores its bytes in that order, marks each, and leaves every other byte alone. -/
def Obligations.BufferWritesAreBigEndian : Prop :=
  ∀ (s : State) (width : Nat) (off : Offset) (v : Word), s.status.busy = false → BufferShape width off →
    ∃ t, t = hostAccess (.write width off v) s ∧ t = { s with mem := t.mem } ∧
      (∀ k, k < width / 8 → t.mem.read (off.toNat - 0x10000 + k) =
        some (BitVec.ofNat 8 (v.toNat / 2 ^ (width - 8 * (k + 1))))) ∧
      (∀ a, a < off.toNat - 0x10000 ∨ off.toNat - 0x10000 + width / 8 ≤ a → t.mem.read a = s.mem.read a)

/-- R72: a host read changes nothing of the block; only the model's own record of the read, and FAULT, can differ. -/
def Obligations.HostReadsHaveNoSideEffects : Prop :=
  ∀ (s t : State) (width : Nat) (off : Offset), t = hostAccess (.read width off) s →
    t = { s with fault := t.fault, hostData := t.hostData, draws := t.draws }

/-- R50, R228: IRQ follows CTRL.IRQ_EN and STATUS; it is 0 after reset, raised by a completion when enabled, and lowered
by the acknowledgement, by the next issue and by clearing IRQ_EN. -/
def Obligations.IrqFollowsCompletionAndAcknowledgement : Prop :=
  (∀ s : State, s.irq = true ↔ s.irqEn = true ∧ (s.status.done = true ∨ s.status.err = true)) ∧
  State.reset.irq = false ∧
  (∀ (s t : State) (w : Word), s.EngineNext w → step s = .next t → t.fault = none → t.irq = s.irqEn) ∧
  (∀ (s : State) (v : Word), (s.status.done = true → v.getLsbD 1 = true) → (s.status.err = true → v.getLsbD 2 = true) →
    (hostAccess (.write 32 0x00008 v) s).irq = false) ∧
  (∀ (s : State) (w : Word), s.status.busy = false → (hostAccess (.write 32 0x00004 w) s).irq = false) ∧
  (∀ (s : State) (v : Word), v.getLsbD 0 = false → (hostAccess (.write 32 0x00000 v) s).irq = false)
end

