-- ==== Sys2Proof/Laws/Operands.lean ====
section
/-! SUPPORT. The views of words as numbers: a concatenation, a half, a byte, and the words the model builds from them. -/

namespace Sys2Proof.Machine

/-- A concatenation as a number: its upper part times the lower part's modulus, plus the lower part. -/
theorem append_toNat {n m : Nat} (x : BitVec n) (y : BitVec m) : (x ++ y).toNat = x.toNat * 2 ^ m + y.toNat := by
  rw [BitVec.toNat_append, ← Nat.shiftLeft_add_eq_or_of_lt y.isLt, Nat.shiftLeft_eq]

theorem pair_toNat (h l : Half) : (pair h l).toNat = h.toNat * 65536 + l.toNat := append_toNat h l

theorem be16_toNat (d : List Byte) (i : Nat) :
    (be16 d i).toNat = (byteAt d i).toNat * 256 + (byteAt d (i + 1)).toNat := append_toNat _ _

theorem hiHalf_toNat (x : Word) : (hiHalf x).toNat = x.toNat / 65536 := by
  have := x.isLt
  simp only [hiHalf, BitVec.extractLsb'_toNat, Nat.shiftRight_eq_div_pow]; omega

theorem loHalf_toNat (x : Word) : (loHalf x).toNat = x.toNat % 65536 := by
  simp [loHalf, BitVec.extractLsb'_toNat]

theorem hiByte_toNat (x : Half) : (hiByte x).toNat = x.toNat / 256 := by
  have := x.isLt
  simp only [hiByte, BitVec.extractLsb'_toNat, Nat.shiftRight_eq_div_pow]; omega

theorem loByte_toNat (x : Half) : (loByte x).toNat = x.toNat % 256 := by
  simp [loByte, BitVec.extractLsb'_toNat]

@[simp] theorem hiHalf_pair (h l : Half) : hiHalf (pair h l) = h := by
  apply BitVec.eq_of_toNat_eq
  have := l.isLt
  rw [hiHalf_toNat, pair_toNat]; omega

@[simp] theorem loHalf_pair (h l : Half) : loHalf (pair h l) = l := by
  apply BitVec.eq_of_toNat_eq
  have := l.isLt
  rw [loHalf_toNat, pair_toNat]; omega

@[simp] theorem pair_halves (x : Word) : pair (hiHalf x) (loHalf x) = x := by
  apply BitVec.eq_of_toNat_eq
  rw [pair_toNat, hiHalf_toNat, loHalf_toNat]; omega

@[simp] theorem bytes_join (x : Half) : hiByte x ++ loByte x = x := by
  apply BitVec.eq_of_toNat_eq
  refine (append_toNat _ _).trans ?_
  rw [hiByte_toNat, loByte_toNat]; omega

theorem joinBytes_one (a : Byte) : (joinBytes [a]).toNat = a.toNat := by
  refine (append_toNat _ _).trans ?_
  simp

theorem joinBytes_two (a b : Byte) : (joinBytes [a, b]).toNat = a.toNat * 256 + b.toNat := by
  refine (append_toNat _ _).trans ?_
  rw [append_toNat]; simp

theorem joinBytes_four (a b c d : Byte) :
    (joinBytes [a, b, c, d]).toNat = a.toNat * 16777216 + b.toNat * 65536 + c.toNat * 256 + d.toNat := by
  refine (append_toNat _ _).trans ?_
  rw [append_toNat, append_toNat]; omega

/-- The fields of a word laid out as R90 has them. -/
theorem encodeFields_toNat (f : CmdFields) :
    (encodeFields f).toNat = f.rsv.toNat * 32 + f.aw.toNat * 16 + f.op.toNat := by
  refine (append_toNat (f.rsv ++ f.aw) f.op).trans ?_
  rw [append_toNat]; omega

theorem bufOffset_toNat (b : Half) : (bufOffset b).toNat = 0x10000 + b.toNat := by
  refine (append_toNat (1 : BitVec 1) b).trans ?_
  simp

end Sys2Proof.Machine
end

