-- ==== Sys2Proof/Laws/Arith.lean ====
section
/-! SUPPORT. The folds and the word sums: each pass keeps the residue, three passes are enough for a u32, and words of a
concatenation. -/

namespace Sys2Proof.Machine

theorem foldPass_mod (x : Nat) : foldPass x % 65535 = x % 65535 := by unfold foldPass; omega

theorem foldPass_lt {x : Nat} (h : 0xFFFF < x) : foldPass x < x := by unfold foldPass; omega

theorem foldPass_pos {x : Nat} (h : 0 < x) : 0 < foldPass x := by unfold foldPass; omega

theorem foldLoop_of_le (n : Nat) {x : Nat} (h : x ≤ 0xFFFF) : foldLoop n x = x := by
  cases n with
  | zero => rfl
  | succ n => rw [foldLoop, if_neg (by omega)]

theorem foldLoop_mod (n x : Nat) : foldLoop n x % 65535 = x % 65535 := by
  induction n generalizing x with
  | zero => rfl
  | succ n ih =>
    rw [foldLoop]; split
    · rw [ih, foldPass_mod]
    · rfl

theorem foldLoop_pos (n : Nat) {x : Nat} (h : 0 < x) : 0 < foldLoop n x := by
  induction n generalizing x with
  | zero => exact h
  | succ n ih =>
    rw [foldLoop]; split
    · exact ih (foldPass_pos h)
    · exact h

/-- Two passes already bring a u32 to 16 bits, so the third changes nothing: the bound of `fold` is never met (R121). -/
theorem foldLoop_two_le {x : Nat} (h : x < 2 ^ 32) : foldLoop 2 x ≤ 0xFFFF := by
  simp only [foldLoop]; split
  · split <;> (unfold foldPass at *; omega)
  · omega

theorem foldLoop_three {x : Nat} (h : x < 2 ^ 32) : foldLoop 3 x = foldLoop 2 x := by
  have h2 := foldLoop_two_le h
  simp only [foldLoop] at *; split
  · split
    · rw [if_pos (by assumption), if_pos (by assumption)] at h2; rw [if_neg (by omega)]
    · rfl
  · rfl

theorem fold_toNat {x : Nat} (h : x < 2 ^ 32) : (fold x).toNat = foldLoop 3 x := by
  have := foldLoop_two_le h
  rw [fold, BitVec.toNat_ofNat, foldLoop_three h]; omega

theorem fold1_toNat (x : Nat) : (fold1 x).toNat = foldPass x % 65536 := by rw [fold1, BitVec.toNat_ofNat]

theorem pairWords_append {a : List Byte} (h : a.length % 2 = 0) (b : List Byte) :
    pairWords (a ++ b) = pairWords a ++ pairWords b := by
  induction a using pairWords.induct with
  | case1 x y e ih => simp only [List.cons_append, pairWords]; rw [ih (by simp at h; omega)]
  | case2 e hne =>
    match e, hne with
    | [], _ => simp [pairWords]
    | [x], _ => simp at h
    | x :: y :: z, hne => exact absurd rfl (hne x y z)

theorem pairWords_length (a : List Byte) : (pairWords a).length = a.length / 2 := by
  induction a using pairWords.induct with
  | case1 x y e ih => simp only [pairWords, List.length_cons, ih]; omega
  | case2 e hne =>
    match e, hne with
    | [], _ => simp [pairWords]
    | [x], _ => simp [pairWords]
    | x :: y :: z, hne => exact absurd rfl (hne x y z)

theorem padEven_append {a : List Byte} (h : a.length % 2 = 0) (b : List Byte) :
    padEven (a ++ b) = a ++ padEven b := by
  unfold padEven
  by_cases hb : b.length % 2 = 1
  · rw [if_pos (by simp only [List.length_append]; omega), if_pos hb, List.append_assoc]
  · rw [if_neg (by simp only [List.length_append]; omega), if_neg hb]

theorem sumWords_append (a b : List Half) : sumWords (a ++ b) = sumWords a + sumWords b := by simp [sumWords]

theorem sumWords_le (a : List Half) : sumWords a ≤ a.length * 65535 := by
  induction a with
  | nil => simp [sumWords]
  | cons x a ih => have := x.isLt; simp [sumWords] at *; omega

/-- The words of a datagram: its first three, then those behind the checksum field (R125). -/
theorem words_eq {d : List Byte} (h : 8 ≤ d.length) :
    words d = pairWords (d.take 6) ++ pairWords (padEven (d.drop 8)) := by
  rw [words, excise, padEven_append (by simp; omega), pairWords_append (by simp; omega)]

theorem pseudoAddends_eq (d : List Byte) (s t : Word) :
    pseudoAddends d s t = (byteAt d 4).toNat * 256 + (byteAt d 5).toNat + s.toNat / 65536 + s.toNat % 65536
      + t.toNat / 65536 + t.toNat % 65536 + 17 := by
  simp only [pseudoAddends, be16_toNat, hiHalf_toNat, loHalf_toNat, Config.proto]

/-- receiveChecksum depends on the words and the pseudo-header sum alone. -/
theorem receiveChecksum_congr {d d' : List Byte} {s t s' t' : Word} (hw : words d' = words d)
    (hp : pseudoHeaderSum d' s' t' = pseudoHeaderSum d s t) : receiveChecksum d' s' t' = receiveChecksum d s t := by
  simp only [receiveChecksum, hw, hp]

theorem encodeDatagram_length (p : List Byte) (sp dp : Half) (s t : Word) :
    (encodeDatagram p sp dp s t).length = 8 + p.length := by
  simp [encodeDatagram, putChecksum, headerBytes, halfBytes]; omega

theorem putChecksum_other (c : Half) (d : List Byte) {k : Nat} (h6 : k ≠ 6) (h7 : k ≠ 7) :
    (putChecksum c d)[k]? = d[k]? := by
  unfold putChecksum; rw [List.getElem?_set_ne (by omega), List.getElem?_set_ne (by omega)]

theorem be16_putChecksum (c : Half) {d : List Byte} (h : 8 ≤ d.length) : be16 (putChecksum c d) 6 = c := by
  have h1 : byteAt (putChecksum c d) 6 = hiByte c := by
    simp only [byteAt, putChecksum, List.getD_eq_getElem?_getD]
    rw [List.getElem?_set_ne (by omega), List.getElem?_set_self (by omega)]; rfl
  have h2 : byteAt (putChecksum c d) 7 = loByte c := by
    simp only [byteAt, putChecksum, List.getD_eq_getElem?_getD]
    rw [List.getElem?_set_self (by simp; omega)]; rfl
  rw [be16, h1, h2, bytes_join]

end Sys2Proof.Machine
end

