-- ==== Sys2Proof/Laws/Memory.lean ====
section
/-! SUPPORT. The laws of the buffer: a read after a write, ranges read and written whole, and the canonical form kept by
every operation. -/

namespace Sys2Proof.Machine

theorem Memory.read_write_same (m : Memory) (i : Nat) (v : Byte) : (m.write i v).read i = some v := by
  induction m with
  | nil => simp [Memory.write, Memory.read]
  | cons c m ih =>
    obtain ⟨a, b⟩ := c
    simp only [Memory.write]
    split
    · simp [Memory.read]
    · split
      · simp [Memory.read]
      · have : a ≠ i := by omega
        simp [Memory.read, this, ih]

theorem Memory.read_write_other (m : Memory) {i j : Nat} (v : Byte) (h : j ≠ i) :
    (m.write i v).read j = m.read j := by
  induction m with
  | nil => simp [Memory.write, Memory.read, h.symm]
  | cons c m ih =>
    obtain ⟨a, b⟩ := c
    simp only [Memory.write]
    split
    · simp [Memory.read, h.symm]
    · split
      · subst_vars; simp [Memory.read, h.symm]
      · simp [Memory.read, ih]

/-- A cell of the list after a write is the written one or was there before. -/
theorem Memory.mem_write {m : Memory} {i : Nat} {v : Byte} {c : Host.Cell} (h : c ∈ m.write i v) :
    c = (i, v) ∨ c ∈ m := by
  induction m with
  | nil => simpa [Memory.write] using h
  | cons d m ih =>
    simp only [Memory.write] at h
    split at h
    · simpa using h
    · split at h
      · rcases List.mem_cons.mp h with h | h
        · exact .inl h
        · exact .inr (List.mem_cons_of_mem _ h)
      · rcases List.mem_cons.mp h with h | h
        · exact .inr (h ▸ List.mem_cons_self ..)
        · rcases ih h with h | h
          · exact .inl h
          · exact .inr (List.mem_cons_of_mem _ h)

theorem Memory.write_wf {m : Memory} {i : Nat} (v : Byte) (hm : m.wf) (hi : i < Config.bufSize) :
    (m.write i v).wf := by
  refine ⟨?_, fun c hc => ?_⟩
  · obtain ⟨hs, -⟩ := hm
    induction m with
    | nil => simp [Memory.write]
    | cons d m ih =>
      obtain ⟨hd, hs⟩ := List.pairwise_cons.mp hs
      simp only [Memory.write]
      split
      · refine List.pairwise_cons.mpr ⟨fun c hc => ?_, List.pairwise_cons.mpr ⟨hd, hs⟩⟩
        rcases List.mem_cons.mp hc with rfl | hc
        · assumption
        · have := hd c hc; simp_all; omega
      · split
        · subst_vars; exact List.pairwise_cons.mpr ⟨hd, hs⟩
        · refine List.pairwise_cons.mpr ⟨fun c hc => ?_, ih hs⟩
          rcases Memory.mem_write hc with rfl | hc
          · simp_all; omega
          · exact hd c hc
  · rcases Memory.mem_write hc with rfl | hc
    · exact hi
    · exact hm.2 c hc

theorem Memory.writeBytes_wf {m : Memory} {off : Nat} {d : List Byte} (hm : m.wf)
    (h : off + d.length ≤ Config.bufSize) : (m.writeBytes off d).wf := by
  induction d generalizing m off with
  | nil => exact hm
  | cons b d ih =>
    simp only [List.length_cons] at h
    exact ih (Memory.write_wf b hm (by omega)) (by omega)

/-- Outside the written range, every byte and every mark is as before. -/
theorem Memory.read_writeBytes_outside (m : Memory) (off : Nat) (d : List Byte) {i : Nat}
    (h : i < off ∨ off + d.length ≤ i) : (m.writeBytes off d).read i = m.read i := by
  induction d generalizing m off with
  | nil => rfl
  | cons b d ih =>
    simp only [List.length_cons] at h
    rw [Memory.writeBytes, ih _ _ (by omega), Memory.read_write_other _ _ (by omega)]

/-- Inside the written range, every byte is the one written. -/
theorem Memory.read_writeBytes_inside (m : Memory) (off : Nat) (d : List Byte) {k : Nat} (h : k < d.length) :
    (m.writeBytes off d).read (off + k) = d[k]? := by
  induction d generalizing m off k with
  | nil => simp at h
  | cons b d ih =>
    rw [Memory.writeBytes]
    cases k with
    | zero => rw [Memory.read_writeBytes_outside _ _ _ (by omega)]; simp [Memory.read_write_same]
    | succ k =>
      have := ih (m.write off b) (off + 1) (k := k) (by simpa using h)
      rw [show off + (k + 1) = off + 1 + k by omega, this]; simp

/-- A range read whole is a list of that length which the buffer holds, and conversely. -/
theorem Memory.readRange_eq_some {m : Memory} {off n : Nat} {d : List Byte} :
    m.readRange off n = some d ↔ d.length = n ∧ ∀ k, k < d.length → m.read (off + k) = d[k]? := by
  induction n generalizing off d with
  | zero =>
    simp only [Memory.readRange, Option.some.injEq]
    constructor
    · rintro rfl; simp
    · rintro ⟨h, -⟩; exact (List.length_eq_zero_iff.mp h).symm
  | succ n ih =>
    simp only [Memory.readRange]
    constructor
    · intro h
      split at h
      · rename_i b d' hb hd
        cases h
        obtain ⟨hl, hk⟩ := ih.mp hd
        refine ⟨by simp [hl], fun k hlt => ?_⟩
        cases k with
        | zero => simpa using hb
        | succ k =>
          have := hk k (by simpa using hlt)
          rw [show off + (k + 1) = off + 1 + k by omega, this]; simp
      · cases h
    · rintro ⟨hl, hk⟩
      cases d with
      | nil => simp at hl
      | cons b d =>
        have hb : m.read off = some b := by simpa using hk 0 (by simp)
        have hd : m.readRange (off + 1) n = some d := ih.mpr ⟨by simpa using hl, fun k hlt => by
          have := hk (k + 1) (by simpa using hlt)
          rw [show off + 1 + k = off + (k + 1) by omega, this]; simp⟩
        rw [hb, hd]

/-- A range cannot be read exactly when one of its marks is false (R237). -/
theorem Memory.readRange_eq_none {m : Memory} {off n : Nat} :
    m.readRange off n = none ↔ ∃ k, k < n ∧ m.read (off + k) = none := by
  induction n generalizing off with
  | zero => simp [Memory.readRange]
  | succ n ih =>
    rw [Memory.readRange]
    constructor
    · intro h
      split at h
      · cases h
      · rename_i hn
        cases hb : m.read off with
        | none => exact ⟨0, by omega, by simpa using hb⟩
        | some b =>
          cases hd : m.readRange (off + 1) n with
          | some d => exact absurd hd (hn b d hb)
          | none =>
            obtain ⟨k, hk, hr⟩ := ih.mp hd
            exact ⟨k + 1, by omega, by rwa [show off + (k + 1) = off + 1 + k by omega]⟩
    · rintro ⟨k, hk, hr⟩
      cases k with
      | zero => simp at hr; simp [hr]
      | succ k =>
        have : m.readRange (off + 1) n = none :=
          ih.mpr ⟨k, by omega, by rwa [show off + 1 + k = off + (k + 1) by omega]⟩
        rw [this]; split <;> simp_all

theorem Memory.length_of_readRange {m : Memory} {off n : Nat} {d : List Byte} (h : m.readRange off n = some d) :
    d.length = n := (Memory.readRange_eq_some.mp h).1

end Sys2Proof.Machine
end

