-- ==== Sys2Proof/Laws/State.lean ====
section
/-! SUPPORT. Beside State: what each named update does to each field, so that no later proof unfolds a record update. -/

namespace Sys2Proof.Machine

variable (s : State)

@[simp] theorem modelFault_irqEn (f : Fault) : (modelFault f s).irqEn = s.irqEn := rfl
@[simp] theorem modelFault_cmd (f : Fault) : (modelFault f s).cmd = s.cmd := rfl
@[simp] theorem modelFault_status (f : Fault) : (modelFault f s).status = s.status := rfl
@[simp] theorem modelFault_len (f : Fault) : (modelFault f s).len = s.len := rfl
@[simp] theorem modelFault_srcIp (f : Fault) : (modelFault f s).srcIp = s.srcIp := rfl
@[simp] theorem modelFault_dstIp (f : Fault) : (modelFault f s).dstIp = s.dstIp := rfl
@[simp] theorem modelFault_ports (f : Fault) : (modelFault f s).ports = s.ports := rfl
@[simp] theorem modelFault_result (f : Fault) : (modelFault f s).result = s.result := rfl
@[simp] theorem modelFault_rxPorts (f : Fault) : (modelFault f s).rxPorts = s.rxPorts := rfl
@[simp] theorem modelFault_rxFields (f : Fault) : (modelFault f s).rxFields = s.rxFields := rfl
@[simp] theorem modelFault_outLen (f : Fault) : (modelFault f s).outLen = s.outLen := rfl
@[simp] theorem modelFault_mem (f : Fault) : (modelFault f s).mem = s.mem := rfl
@[simp] theorem modelFault_pend (f : Fault) : (modelFault f s).pend = s.pend := rfl
@[simp] theorem modelFault_fault (f : Fault) : (modelFault f s).fault = some f := rfl
@[simp] theorem modelFault_agenda (f : Fault) : (modelFault f s).agenda = s.agenda := rfl
@[simp] theorem modelFault_hostData (f : Fault) : (modelFault f s).hostData = s.hostData := rfl
@[simp] theorem modelFault_draws (f : Fault) : (modelFault f s).draws = s.draws := rfl

@[simp] theorem issue_irqEn (w : Word) : (issue w s).irqEn = s.irqEn := rfl
@[simp] theorem issue_cmd (w : Word) : (issue w s).cmd = w := rfl
@[simp] theorem issue_status (w : Word) : (issue w s).status = statusIssued := rfl
@[simp] theorem issue_len (w : Word) : (issue w s).len = s.len := rfl
@[simp] theorem issue_srcIp (w : Word) : (issue w s).srcIp = s.srcIp := rfl
@[simp] theorem issue_dstIp (w : Word) : (issue w s).dstIp = s.dstIp := rfl
@[simp] theorem issue_ports (w : Word) : (issue w s).ports = s.ports := rfl
@[simp] theorem issue_result (w : Word) : (issue w s).result = s.result := rfl
@[simp] theorem issue_rxPorts (w : Word) : (issue w s).rxPorts = s.rxPorts := rfl
@[simp] theorem issue_rxFields (w : Word) : (issue w s).rxFields = s.rxFields := rfl
@[simp] theorem issue_outLen (w : Word) : (issue w s).outLen = s.outLen := rfl
@[simp] theorem issue_mem (w : Word) : (issue w s).mem = s.mem := rfl
@[simp] theorem issue_pend (w : Word) : (issue w s).pend = some w := rfl
@[simp] theorem issue_fault (w : Word) : (issue w s).fault = s.fault := rfl
@[simp] theorem issue_agenda (w : Word) : (issue w s).agenda = s.agenda := rfl
@[simp] theorem issue_hostData (w : Word) : (issue w s).hostData = s.hostData := rfl
@[simp] theorem issue_draws (w : Word) : (issue w s).draws = s.draws := rfl

@[simp] theorem succeed_irqEn : (succeed s).irqEn = s.irqEn := rfl
@[simp] theorem succeed_cmd : (succeed s).cmd = s.cmd := rfl
@[simp] theorem succeed_status : (succeed s).status = statusDone s.status := rfl
@[simp] theorem succeed_len : (succeed s).len = s.len := rfl
@[simp] theorem succeed_srcIp : (succeed s).srcIp = s.srcIp := rfl
@[simp] theorem succeed_dstIp : (succeed s).dstIp = s.dstIp := rfl
@[simp] theorem succeed_ports : (succeed s).ports = s.ports := rfl
@[simp] theorem succeed_result : (succeed s).result = s.result := rfl
@[simp] theorem succeed_rxPorts : (succeed s).rxPorts = s.rxPorts := rfl
@[simp] theorem succeed_rxFields : (succeed s).rxFields = s.rxFields := rfl
@[simp] theorem succeed_outLen : (succeed s).outLen = s.outLen := rfl
@[simp] theorem succeed_mem : (succeed s).mem = s.mem := rfl
@[simp] theorem succeed_pend : (succeed s).pend = none := rfl
@[simp] theorem succeed_fault : (succeed s).fault = s.fault := rfl
@[simp] theorem succeed_agenda : (succeed s).agenda = s.agenda := rfl
@[simp] theorem succeed_hostData : (succeed s).hostData = s.hostData := rfl
@[simp] theorem succeed_draws : (succeed s).draws = s.draws := rfl

@[simp] theorem errorCompletion_irqEn (e : CmdError) : (errorCompletion e s).irqEn = s.irqEn := rfl
@[simp] theorem errorCompletion_cmd (e : CmdError) : (errorCompletion e s).cmd = s.cmd := rfl
@[simp] theorem errorCompletion_status (e : CmdError) : (errorCompletion e s).status = statusFailed e := rfl
@[simp] theorem errorCompletion_len (e : CmdError) : (errorCompletion e s).len = s.len := rfl
@[simp] theorem errorCompletion_srcIp (e : CmdError) : (errorCompletion e s).srcIp = s.srcIp := rfl
@[simp] theorem errorCompletion_dstIp (e : CmdError) : (errorCompletion e s).dstIp = s.dstIp := rfl
@[simp] theorem errorCompletion_ports (e : CmdError) : (errorCompletion e s).ports = s.ports := rfl
@[simp] theorem errorCompletion_result (e : CmdError) : (errorCompletion e s).result = s.result := rfl
@[simp] theorem errorCompletion_rxPorts (e : CmdError) : (errorCompletion e s).rxPorts = s.rxPorts := rfl
@[simp] theorem errorCompletion_rxFields (e : CmdError) : (errorCompletion e s).rxFields = s.rxFields := rfl
@[simp] theorem errorCompletion_outLen (e : CmdError) : (errorCompletion e s).outLen = s.outLen := rfl
@[simp] theorem errorCompletion_mem (e : CmdError) : (errorCompletion e s).mem = s.mem := rfl
@[simp] theorem errorCompletion_pend (e : CmdError) : (errorCompletion e s).pend = none := rfl
@[simp] theorem errorCompletion_fault (e : CmdError) : (errorCompletion e s).fault = s.fault := rfl
@[simp] theorem errorCompletion_agenda (e : CmdError) : (errorCompletion e s).agenda = s.agenda := rfl
@[simp] theorem errorCompletion_hostData (e : CmdError) : (errorCompletion e s).hostData = s.hostData := rfl
@[simp] theorem errorCompletion_draws (e : CmdError) : (errorCompletion e s).draws = s.draws := rfl

@[simp] theorem acknowledge_irqEn (v : Word) : (acknowledge v s).irqEn = s.irqEn := rfl
@[simp] theorem acknowledge_cmd (v : Word) : (acknowledge v s).cmd = s.cmd := rfl
@[simp] theorem acknowledge_status (v : Word) : (acknowledge v s).status = statusAcked v s.status := rfl
@[simp] theorem acknowledge_len (v : Word) : (acknowledge v s).len = s.len := rfl
@[simp] theorem acknowledge_srcIp (v : Word) : (acknowledge v s).srcIp = s.srcIp := rfl
@[simp] theorem acknowledge_dstIp (v : Word) : (acknowledge v s).dstIp = s.dstIp := rfl
@[simp] theorem acknowledge_ports (v : Word) : (acknowledge v s).ports = s.ports := rfl
@[simp] theorem acknowledge_result (v : Word) : (acknowledge v s).result = s.result := rfl
@[simp] theorem acknowledge_rxPorts (v : Word) : (acknowledge v s).rxPorts = s.rxPorts := rfl
@[simp] theorem acknowledge_rxFields (v : Word) : (acknowledge v s).rxFields = s.rxFields := rfl
@[simp] theorem acknowledge_outLen (v : Word) : (acknowledge v s).outLen = s.outLen := rfl
@[simp] theorem acknowledge_mem (v : Word) : (acknowledge v s).mem = s.mem := rfl
@[simp] theorem acknowledge_pend (v : Word) : (acknowledge v s).pend = s.pend := rfl
@[simp] theorem acknowledge_fault (v : Word) : (acknowledge v s).fault = s.fault := rfl
@[simp] theorem acknowledge_agenda (v : Word) : (acknowledge v s).agenda = s.agenda := rfl
@[simp] theorem acknowledge_hostData (v : Word) : (acknowledge v s).hostData = s.hostData := rfl
@[simp] theorem acknowledge_draws (v : Word) : (acknowledge v s).draws = s.draws := rfl

@[simp] theorem writeOutputs_irqEn (a b c : Word) (n : Half) : (writeOutputs a b c n s).irqEn = s.irqEn := rfl
@[simp] theorem writeOutputs_cmd (a b c : Word) (n : Half) : (writeOutputs a b c n s).cmd = s.cmd := rfl
@[simp] theorem writeOutputs_status (a b c : Word) (n : Half) : (writeOutputs a b c n s).status = s.status := rfl
@[simp] theorem writeOutputs_len (a b c : Word) (n : Half) : (writeOutputs a b c n s).len = s.len := rfl
@[simp] theorem writeOutputs_srcIp (a b c : Word) (n : Half) : (writeOutputs a b c n s).srcIp = s.srcIp := rfl
@[simp] theorem writeOutputs_dstIp (a b c : Word) (n : Half) : (writeOutputs a b c n s).dstIp = s.dstIp := rfl
@[simp] theorem writeOutputs_ports (a b c : Word) (n : Half) : (writeOutputs a b c n s).ports = s.ports := rfl
@[simp] theorem writeOutputs_result (a b c : Word) (n : Half) : (writeOutputs a b c n s).result = a := rfl
@[simp] theorem writeOutputs_rxPorts (a b c : Word) (n : Half) : (writeOutputs a b c n s).rxPorts = b := rfl
@[simp] theorem writeOutputs_rxFields (a b c : Word) (n : Half) : (writeOutputs a b c n s).rxFields = c := rfl
@[simp] theorem writeOutputs_outLen (a b c : Word) (n : Half) : (writeOutputs a b c n s).outLen = n := rfl
@[simp] theorem writeOutputs_mem (a b c : Word) (n : Half) : (writeOutputs a b c n s).mem = s.mem := rfl
@[simp] theorem writeOutputs_pend (a b c : Word) (n : Half) : (writeOutputs a b c n s).pend = s.pend := rfl
@[simp] theorem writeOutputs_fault (a b c : Word) (n : Half) : (writeOutputs a b c n s).fault = s.fault := rfl
@[simp] theorem writeOutputs_agenda (a b c : Word) (n : Half) : (writeOutputs a b c n s).agenda = s.agenda := rfl
@[simp] theorem writeOutputs_hostData (a b c : Word) (n : Half) : (writeOutputs a b c n s).hostData = s.hostData := rfl
@[simp] theorem writeOutputs_draws (a b c : Word) (n : Half) : (writeOutputs a b c n s).draws = s.draws := rfl

@[simp] theorem judge_irqEn (v : Verdict) : (judge v s).irqEn = s.irqEn := rfl
@[simp] theorem judge_cmd (v : Verdict) : (judge v s).cmd = s.cmd := rfl
@[simp] theorem judge_status (v : Verdict) : (judge v s).status = statusJudged v s.status := rfl
@[simp] theorem judge_len (v : Verdict) : (judge v s).len = s.len := rfl
@[simp] theorem judge_srcIp (v : Verdict) : (judge v s).srcIp = s.srcIp := rfl
@[simp] theorem judge_dstIp (v : Verdict) : (judge v s).dstIp = s.dstIp := rfl
@[simp] theorem judge_ports (v : Verdict) : (judge v s).ports = s.ports := rfl
@[simp] theorem judge_result (v : Verdict) : (judge v s).result = s.result := rfl
@[simp] theorem judge_rxPorts (v : Verdict) : (judge v s).rxPorts = s.rxPorts := rfl
@[simp] theorem judge_rxFields (v : Verdict) : (judge v s).rxFields = s.rxFields := rfl
@[simp] theorem judge_outLen (v : Verdict) : (judge v s).outLen = s.outLen := rfl
@[simp] theorem judge_mem (v : Verdict) : (judge v s).mem = s.mem := rfl
@[simp] theorem judge_pend (v : Verdict) : (judge v s).pend = s.pend := rfl
@[simp] theorem judge_fault (v : Verdict) : (judge v s).fault = s.fault := rfl
@[simp] theorem judge_agenda (v : Verdict) : (judge v s).agenda = s.agenda := rfl
@[simp] theorem judge_hostData (v : Verdict) : (judge v s).hostData = s.hostData := rfl
@[simp] theorem judge_draws (v : Verdict) : (judge v s).draws = s.draws := rfl

@[simp] theorem respond_irqEn (v : Word) : (respond v s).irqEn = s.irqEn := rfl
@[simp] theorem respond_cmd (v : Word) : (respond v s).cmd = s.cmd := rfl
@[simp] theorem respond_status (v : Word) : (respond v s).status = s.status := rfl
@[simp] theorem respond_len (v : Word) : (respond v s).len = s.len := rfl
@[simp] theorem respond_srcIp (v : Word) : (respond v s).srcIp = s.srcIp := rfl
@[simp] theorem respond_dstIp (v : Word) : (respond v s).dstIp = s.dstIp := rfl
@[simp] theorem respond_ports (v : Word) : (respond v s).ports = s.ports := rfl
@[simp] theorem respond_result (v : Word) : (respond v s).result = s.result := rfl
@[simp] theorem respond_rxPorts (v : Word) : (respond v s).rxPorts = s.rxPorts := rfl
@[simp] theorem respond_rxFields (v : Word) : (respond v s).rxFields = s.rxFields := rfl
@[simp] theorem respond_outLen (v : Word) : (respond v s).outLen = s.outLen := rfl
@[simp] theorem respond_mem (v : Word) : (respond v s).mem = s.mem := rfl
@[simp] theorem respond_pend (v : Word) : (respond v s).pend = s.pend := rfl
@[simp] theorem respond_fault (v : Word) : (respond v s).fault = s.fault := rfl
@[simp] theorem respond_agenda (v : Word) : (respond v s).agenda = s.agenda := rfl
@[simp] theorem respond_hostData (v : Word) : (respond v s).hostData = some v := rfl
@[simp] theorem respond_draws (v : Word) : (respond v s).draws = s.draws := rfl

@[simp] theorem respondAny_irqEn (n : Nat) : (respondAny n s).irqEn = s.irqEn := rfl
@[simp] theorem respondAny_cmd (n : Nat) : (respondAny n s).cmd = s.cmd := rfl
@[simp] theorem respondAny_status (n : Nat) : (respondAny n s).status = s.status := rfl
@[simp] theorem respondAny_len (n : Nat) : (respondAny n s).len = s.len := rfl
@[simp] theorem respondAny_srcIp (n : Nat) : (respondAny n s).srcIp = s.srcIp := rfl
@[simp] theorem respondAny_dstIp (n : Nat) : (respondAny n s).dstIp = s.dstIp := rfl
@[simp] theorem respondAny_ports (n : Nat) : (respondAny n s).ports = s.ports := rfl
@[simp] theorem respondAny_result (n : Nat) : (respondAny n s).result = s.result := rfl
@[simp] theorem respondAny_rxPorts (n : Nat) : (respondAny n s).rxPorts = s.rxPorts := rfl
@[simp] theorem respondAny_rxFields (n : Nat) : (respondAny n s).rxFields = s.rxFields := rfl
@[simp] theorem respondAny_outLen (n : Nat) : (respondAny n s).outLen = s.outLen := rfl
@[simp] theorem respondAny_mem (n : Nat) : (respondAny n s).mem = s.mem := rfl
@[simp] theorem respondAny_pend (n : Nat) : (respondAny n s).pend = s.pend := rfl
@[simp] theorem respondAny_fault (n : Nat) : (respondAny n s).fault = s.fault := rfl
@[simp] theorem respondAny_agenda (n : Nat) : (respondAny n s).agenda = s.agenda := rfl
@[simp] theorem respondAny_hostData (n : Nat) : (respondAny n s).hostData = some (BitVec.ofNat 32 ((Config.freeWord s.draws).toNat % 2 ^ n)) := rfl
@[simp] theorem respondAny_draws (n : Nat) : (respondAny n s).draws = s.draws + 1 := rfl

@[simp] theorem advance_irqEn : (advance s).irqEn = s.irqEn := rfl
@[simp] theorem advance_cmd : (advance s).cmd = s.cmd := rfl
@[simp] theorem advance_status : (advance s).status = s.status := rfl
@[simp] theorem advance_len : (advance s).len = s.len := rfl
@[simp] theorem advance_srcIp : (advance s).srcIp = s.srcIp := rfl
@[simp] theorem advance_dstIp : (advance s).dstIp = s.dstIp := rfl
@[simp] theorem advance_ports : (advance s).ports = s.ports := rfl
@[simp] theorem advance_result : (advance s).result = s.result := rfl
@[simp] theorem advance_rxPorts : (advance s).rxPorts = s.rxPorts := rfl
@[simp] theorem advance_rxFields : (advance s).rxFields = s.rxFields := rfl
@[simp] theorem advance_outLen : (advance s).outLen = s.outLen := rfl
@[simp] theorem advance_mem : (advance s).mem = s.mem := rfl
@[simp] theorem advance_pend : (advance s).pend = s.pend := rfl
@[simp] theorem advance_fault : (advance s).fault = s.fault := rfl
@[simp] theorem advance_agenda : (advance s).agenda = s.agenda.tail := rfl
@[simp] theorem advance_hostData : (advance s).hostData = s.hostData := rfl
@[simp] theorem advance_draws : (advance s).draws = s.draws := rfl

@[simp] theorem memWrite_irqEn (off : Nat) (d : List Byte) : (memWrite off d s).irqEn = s.irqEn := rfl
@[simp] theorem memWrite_cmd (off : Nat) (d : List Byte) : (memWrite off d s).cmd = s.cmd := rfl
@[simp] theorem memWrite_status (off : Nat) (d : List Byte) : (memWrite off d s).status = s.status := rfl
@[simp] theorem memWrite_len (off : Nat) (d : List Byte) : (memWrite off d s).len = s.len := rfl
@[simp] theorem memWrite_srcIp (off : Nat) (d : List Byte) : (memWrite off d s).srcIp = s.srcIp := rfl
@[simp] theorem memWrite_dstIp (off : Nat) (d : List Byte) : (memWrite off d s).dstIp = s.dstIp := rfl
@[simp] theorem memWrite_ports (off : Nat) (d : List Byte) : (memWrite off d s).ports = s.ports := rfl
@[simp] theorem memWrite_result (off : Nat) (d : List Byte) : (memWrite off d s).result = s.result := rfl
@[simp] theorem memWrite_rxPorts (off : Nat) (d : List Byte) : (memWrite off d s).rxPorts = s.rxPorts := rfl
@[simp] theorem memWrite_rxFields (off : Nat) (d : List Byte) : (memWrite off d s).rxFields = s.rxFields := rfl
@[simp] theorem memWrite_outLen (off : Nat) (d : List Byte) : (memWrite off d s).outLen = s.outLen := rfl
@[simp] theorem memWrite_mem (off : Nat) (d : List Byte) : (memWrite off d s).mem = s.mem.writeBytes off d := rfl
@[simp] theorem memWrite_pend (off : Nat) (d : List Byte) : (memWrite off d s).pend = s.pend := rfl
@[simp] theorem memWrite_fault (off : Nat) (d : List Byte) : (memWrite off d s).fault = s.fault := rfl
@[simp] theorem memWrite_agenda (off : Nat) (d : List Byte) : (memWrite off d s).agenda = s.agenda := rfl
@[simp] theorem memWrite_hostData (off : Nat) (d : List Byte) : (memWrite off d s).hostData = s.hostData := rfl
@[simp] theorem memWrite_draws (off : Nat) (d : List Byte) : (memWrite off d s).draws = s.draws := rfl

@[simp] theorem platformReset_irqEn : (platformReset s).irqEn = false := rfl
@[simp] theorem platformReset_cmd : (platformReset s).cmd = 0 := rfl
@[simp] theorem platformReset_status : (platformReset s).status = Status.zero := rfl
@[simp] theorem platformReset_len : (platformReset s).len = 0 := rfl
@[simp] theorem platformReset_srcIp : (platformReset s).srcIp = 0 := rfl
@[simp] theorem platformReset_dstIp : (platformReset s).dstIp = 0 := rfl
@[simp] theorem platformReset_ports : (platformReset s).ports = 0 := rfl
@[simp] theorem platformReset_result : (platformReset s).result = 0 := rfl
@[simp] theorem platformReset_rxPorts : (platformReset s).rxPorts = 0 := rfl
@[simp] theorem platformReset_rxFields : (platformReset s).rxFields = 0 := rfl
@[simp] theorem platformReset_outLen : (platformReset s).outLen = 0 := rfl
@[simp] theorem platformReset_mem : (platformReset s).mem = [] := rfl
@[simp] theorem platformReset_pend : (platformReset s).pend = none := rfl
@[simp] theorem platformReset_fault : (platformReset s).fault = s.fault := rfl
@[simp] theorem platformReset_agenda : (platformReset s).agenda = s.agenda := rfl
@[simp] theorem platformReset_hostData : (platformReset s).hostData = s.hostData := rfl
@[simp] theorem platformReset_draws : (platformReset s).draws = s.draws := rfl

@[simp] theorem reset_irqEn : State.reset.irqEn = false := rfl
@[simp] theorem reset_cmd : State.reset.cmd = 0 := rfl
@[simp] theorem reset_status : State.reset.status = Status.zero := rfl
@[simp] theorem reset_len : State.reset.len = 0 := rfl
@[simp] theorem reset_srcIp : State.reset.srcIp = 0 := rfl
@[simp] theorem reset_dstIp : State.reset.dstIp = 0 := rfl
@[simp] theorem reset_ports : State.reset.ports = 0 := rfl
@[simp] theorem reset_result : State.reset.result = 0 := rfl
@[simp] theorem reset_rxPorts : State.reset.rxPorts = 0 := rfl
@[simp] theorem reset_rxFields : State.reset.rxFields = 0 := rfl
@[simp] theorem reset_outLen : State.reset.outLen = 0 := rfl
@[simp] theorem reset_mem : State.reset.mem = [] := rfl
@[simp] theorem reset_pend : State.reset.pend = none := rfl
@[simp] theorem reset_fault : State.reset.fault = none := rfl
@[simp] theorem reset_agenda : State.reset.agenda = [] := rfl
@[simp] theorem reset_hostData : State.reset.hostData = none := rfl
@[simp] theorem reset_draws : State.reset.draws = 0 := rfl

@[simp] theorem statusDone_busy (t : Status) : (statusDone t).busy = false := rfl
@[simp] theorem statusDone_done (t : Status) : (statusDone t).done = true := rfl
@[simp] theorem statusDone_err (t : Status) : (statusDone t).err = t.err := rfl
@[simp] theorem statusDone_accept (t : Status) : (statusDone t).accept = t.accept := rfl
@[simp] theorem statusDone_reason (t : Status) : (statusDone t).reason = t.reason := rfl
@[simp] theorem statusDone_errcode (t : Status) : (statusDone t).errcode = t.errcode := rfl

@[simp] theorem statusJudged_busy (v : Verdict) (t : Status) : (statusJudged v t).busy = t.busy := rfl
@[simp] theorem statusJudged_done (v : Verdict) (t : Status) : (statusJudged v t).done = t.done := rfl
@[simp] theorem statusJudged_err (v : Verdict) (t : Status) : (statusJudged v t).err = t.err := rfl
@[simp] theorem statusJudged_accept (v : Verdict) (t : Status) : (statusJudged v t).accept = accepting v := rfl
@[simp] theorem statusJudged_reason (v : Verdict) (t : Status) : (statusJudged v t).reason = some v := rfl
@[simp] theorem statusJudged_errcode (v : Verdict) (t : Status) : (statusJudged v t).errcode = t.errcode := rfl

@[simp] theorem statusAcked_busy (v : Word) (t : Status) : (statusAcked v t).busy = t.busy := rfl
@[simp] theorem statusAcked_done (v : Word) (t : Status) : (statusAcked v t).done = (t.done && !v.getLsbD 1) := rfl
@[simp] theorem statusAcked_err (v : Word) (t : Status) : (statusAcked v t).err = (t.err && !v.getLsbD 2) := rfl
@[simp] theorem statusAcked_accept (v : Word) (t : Status) : (statusAcked v t).accept = t.accept := rfl
@[simp] theorem statusAcked_reason (v : Word) (t : Status) : (statusAcked v t).reason = t.reason := rfl
@[simp] theorem statusAcked_errcode (v : Word) (t : Status) : (statusAcked v t).errcode = if v.getLsbD 2 then none else t.errcode := rfl

@[simp] theorem statusFailed_busy (e : CmdError) : (statusFailed e).busy = false := rfl
@[simp] theorem statusFailed_done (e : CmdError) : (statusFailed e).done = false := rfl
@[simp] theorem statusFailed_err (e : CmdError) : (statusFailed e).err = true := rfl
@[simp] theorem statusFailed_accept (e : CmdError) : (statusFailed e).accept = false := rfl
@[simp] theorem statusFailed_reason (e : CmdError) : (statusFailed e).reason = none := rfl
@[simp] theorem statusFailed_errcode (e : CmdError) : (statusFailed e).errcode = some e := rfl

@[simp] theorem statusIssued_busy : (statusIssued).busy = true := rfl
@[simp] theorem statusIssued_done : (statusIssued).done = false := rfl
@[simp] theorem statusIssued_err : (statusIssued).err = false := rfl
@[simp] theorem statusIssued_accept : (statusIssued).accept = false := rfl
@[simp] theorem statusIssued_reason : (statusIssued).reason = none := rfl
@[simp] theorem statusIssued_errcode : (statusIssued).errcode = none := rfl

@[simp] theorem statusZero_busy : (Status.zero).busy = false := rfl
@[simp] theorem statusZero_done : (Status.zero).done = false := rfl
@[simp] theorem statusZero_err : (Status.zero).err = false := rfl
@[simp] theorem statusZero_accept : (Status.zero).accept = false := rfl
@[simp] theorem statusZero_reason : (Status.zero).reason = none := rfl
@[simp] theorem statusZero_errcode : (Status.zero).errcode = none := rfl

end Sys2Proof.Machine
end

