-- ==== Sys2Proof/Laws/Step.lean ====
section
/-! SUPPORT. What a step and a completion can do, said once: whose turn it is, the cases of a step, and the outcomes each
command and each host access has. Later proofs cite these instead of unfolding step, exec or hostAccess. -/

namespace Sys2Proof.Machine

theorem nextTurn_of_engineNext {s : State} {w : Word} (h : s.EngineNext w) : nextTurn s = .complete w := by
  obtain ⟨hf, hp, ha⟩ := h
  cases hs : s.agenda with
  | nil => simp [nextTurn, hf, hs, engineTurn, hp]
  | cons e r => simp_all [nextTurn, engineTurn]

theorem nextTurn_of_hostNext {s : State} {a : Access} (h : s.HostNext a) : nextTurn s = .host a := by
  obtain ⟨hf, ha⟩ := h
  cases hs : s.agenda with
  | nil => simp [hs] at ha
  | cons e r => simp_all [nextTurn]

theorem nextTurn_of_reset {s : State} (h : s.agenda.head? = some .reset) : nextTurn s = .reset := by
  cases hs : s.agenda with
  | nil => simp [hs] at h
  | cons e r => cases hf : s.fault <;> simp_all [nextTurn]

/-- The engine's step (R203). -/
theorem step_of_engineNext {s : State} {w : Word} (h : s.EngineNext w) :
    step s = match decodeCmd w with
      | .error e => .next (errorCompletion e (advance s))
      | .ok i => exec i (advance s) := by
  cases hd : decodeCmd w <;> simp only [step, nextTurn_of_engineNext h, hd]

/-- The turn a state gives says which case of `nextTurn` it is in. -/
theorem nextTurn_complete {s : State} {w : Word} (h : nextTurn s = .complete w) : s.fault = none ∧ s.pend = some w := by
  unfold nextTurn at h
  split at h
  all_goals first
    | cases h
    | (unfold engineTurn at h; split at h <;> simp_all)

/-- Every step that answers a next state is a reset, a host access, an idle turn, an error completion or the completion
of a command. -/
theorem step_cases {s t : State} (h : step s = .next t) :
    t = platformReset (advance s) ∨
    (∃ a, s.fault = none ∧ t = hostAccess a (advance s)) ∨
    t = advance s ∨
    (∃ w e, s.fault = none ∧ s.pend = some w ∧ decodeCmd w = .error e ∧ t = errorCompletion e (advance s)) ∨
    (∃ w i, s.fault = none ∧ s.pend = some w ∧ decodeCmd w = .ok i ∧ exec i (advance s) = .next t) := by
  unfold step at h
  split at h
  · exact .inl (by simpa using h.symm)
  · cases h
  · rename_i a ha
    refine .inr (.inl ⟨a, ?_, by simpa using h.symm⟩)
    unfold nextTurn at ha
    split at ha
    all_goals first
      | assumption
      | cases ha
  · exact .inr (.inr (.inl (by simpa using h.symm)))
  · rename_i w hw
    obtain ⟨hf, hp⟩ := nextTurn_complete hw
    split at h
    · rename_i e hd
      exact .inr (.inr (.inr (.inl ⟨w, e, hf, hp, hd, by simpa using h.symm⟩)))
    · rename_i i hd
      exact .inr (.inr (.inr (.inr ⟨w, i, hf, hp, hd, h⟩)))

/-- The outcomes of the three checksum commands (R141, R146, R151). -/
theorem checksumCommand_cases (f : List Byte → Word → Word → Half) (s : State) :
    (s.len.toNat < 8 ∧ checksumCommand f s = .next (errorCompletion .lenRange s)) ∨
    (8 ≤ s.len.toNat ∧ ¬ s.Written 0 s.len.toNat ∧ checksumCommand f s = .next (modelFault .uninitRead s)) ∨
    (8 ≤ s.len.toNat ∧ ∃ d, d.length = s.len.toNat ∧ s.Holds 0 d ∧
      checksumCommand f s = .next (succeed (writeOutputs (pair 0 (f d s.srcIp s.dstIp)) 0 0 0 s))) := by
  unfold checksumCommand
  by_cases hl : s.len.toNat < 8
  · exact .inl ⟨hl, by simp [Config.hdrLen, hl]⟩
  · refine .inr ?_
    cases hr : memRead 0 s.len.toNat s with
    | none =>
      refine .inl ⟨by omega, fun hw => ?_, by simp [Config.hdrLen, hl]⟩
      obtain ⟨k, hk, h0⟩ := Memory.readRange_eq_none.mp hr
      exact hw k hk h0
    | some d =>
      obtain ⟨h1, h2⟩ := Memory.readRange_eq_some.mp hr
      exact .inr ⟨by omega, d, h1, h2, by simp [Config.hdrLen, hl]⟩

/-- The outcomes of ENCODE (R181). -/
theorem execEncode_cases (s : State) :
    (65527 < s.len.toNat ∧ execEncode s = .next (errorCompletion .lenRange s)) ∨
    (s.len.toNat ≤ 65527 ∧ ¬ s.Written 8 s.len.toNat ∧ execEncode s = .next (modelFault .uninitRead s)) ∨
    (s.len.toNat ≤ 65527 ∧ ∃ payload, payload.length = s.len.toNat ∧ s.Holds 8 payload ∧
      execEncode s = .next (succeed (writeOutputs
        (pair 0 (be16 (encodeDatagram payload s.sport s.dport s.srcIp s.dstIp) 6)) 0 0
        (BitVec.ofNat 16 (8 + s.len.toNat))
        (memWrite 0 ((encodeDatagram payload s.sport s.dport s.srcIp s.dstIp).take 8) s)))) := by
  unfold execEncode
  by_cases hl : s.len.toNat > 65527
  · exact .inl ⟨hl, by simp [Config.maxPayload, hl]⟩
  · refine .inr ?_
    cases hr : memRead Config.hdrLen s.len.toNat s with
    | none =>
      refine .inl ⟨by omega, fun hw => ?_, by simp [Config.maxPayload, hl]⟩
      obtain ⟨k, hk, h0⟩ := Memory.readRange_eq_none.mp hr
      exact hw k hk h0
    | some d =>
      obtain ⟨h1, h2⟩ := Memory.readRange_eq_some.mp hr
      exact .inr ⟨by omega, d, h1, h2, by simp [Config.maxPayload, hl, Config.hdrLen]⟩

/-- The outcomes of DECODE (R186). -/
theorem execDecode_cases (s : State) :
    (s.len.toNat < 8 ∧ execDecode s = .next (reportDecode s.len.toNat .rejShort s)) ∨
    (8 ≤ s.len.toNat ∧ ¬ s.Written 0 s.len.toNat ∧ execDecode s = .next (modelFault .uninitRead s)) ∨
    (8 ≤ s.len.toNat ∧ ∃ raw, raw.length = s.len.toNat ∧ s.Holds 0 raw ∧
      execDecode s = .next (reportDecode s.len.toNat (decodeDatagram raw s.srcIp s.dport s.dstIp) s)) := by
  unfold execDecode
  by_cases hl : s.len.toNat < 8
  · exact .inl ⟨hl, by simp [Config.hdrLen, hl]⟩
  · refine .inr ?_
    cases hr : memRead 0 s.len.toNat s with
    | none =>
      refine .inl ⟨by omega, fun hw => ?_, by simp [Config.hdrLen, hl]⟩
      obtain ⟨k, hk, h0⟩ := Memory.readRange_eq_none.mp hr
      exact hw k hk h0
    | some d =>
      obtain ⟨h1, h2⟩ := Memory.readRange_eq_some.mp hr
      exact .inr ⟨by omega, d, h1, h2, by simp [Config.hdrLen, hl]⟩

/-- Two lists the buffer holds at one place are equal if they have one length. -/
theorem holds_unique {s : State} {off : Nat} {d d' : List Byte} (hl : d.length = d'.length) (h : s.Holds off d)
    (h' : s.Holds off d') : d = d' := by
  apply List.ext_getElem? ; intro k
  by_cases hk : k < d.length
  · rw [← h k hk, ← h' k (hl ▸ hk)]
  · rw [List.getElem?_eq_none (by omega), List.getElem?_eq_none (by omega)]

/-- What a DECODE's report is, whatever its result: DONE, a verdict, and output registers; nothing else. -/
theorem reportDecode_eq (n : Nat) (r : DecodeResult) (s : State) :
    ∃ a b c o, reportDecode n r s = succeed (judge (verdictOf r) (writeOutputs a b c o s)) := by
  cases r <;> exact ⟨_, _, _, _, rfl⟩

/-- Every completion of a command answers a next state: the mark of UNINIT_READ, LEN_RANGE (never for DECODE), or a
success, in which DECODE alone judges. -/
theorem exec_cases (i : Instr) (s : State) : ∃ t, exec i s = .next t ∧
    (t = modelFault .uninitRead s ∨
      (t = errorCompletion .lenRange s ∧ i ≠ .decode) ∨
      (∃ u, t = succeed u ∧ i ≠ .decode ∧ u.status = s.status ∧ u.fault = s.fault ∧ (i = .nop → u = s)) ∨
      (i = .decode ∧ ∃ v a b c o, t = succeed (judge v (writeOutputs a b c o s)))) := by
  have key : ∀ f, ∃ t, checksumCommand f s = .next t ∧ (t = modelFault .uninitRead s ∨
      t = errorCompletion .lenRange s ∨ ∃ u, t = succeed u ∧ u.status = s.status ∧ u.fault = s.fault) := by
    intro f
    rcases checksumCommand_cases f s with ⟨-, h⟩ | ⟨-, -, h⟩ | ⟨-, d, -, -, h⟩
    · exact ⟨_, h, .inr (.inl rfl)⟩
    · exact ⟨_, h, .inl rfl⟩
    · exact ⟨_, h, .inr (.inr ⟨_, rfl, rfl, rfl⟩)⟩
  cases i <;> simp only [exec, execCsumRecv, execCsumSend, execPseudoSum]
  case nop => exact ⟨_, rfl, .inr (.inr (.inl ⟨s, rfl, by simp, rfl, rfl, fun _ => rfl⟩))⟩
  case decode =>
    rcases execDecode_cases s with ⟨-, h⟩ | ⟨-, -, h⟩ | ⟨-, d, -, -, h⟩
    · exact ⟨_, h, .inr (.inr (.inr ⟨trivial, _, _, _, _, _, rfl⟩))⟩
    · exact ⟨_, h, .inl rfl⟩
    · obtain ⟨a, b, c, o, e⟩ := reportDecode_eq s.len.toNat (decodeDatagram d s.srcIp s.dport s.dstIp) s
      exact ⟨_, h, .inr (.inr (.inr ⟨trivial, _, a, b, c, o, e⟩))⟩
  case encode =>
    rcases execEncode_cases s with ⟨-, h⟩ | ⟨-, -, h⟩ | ⟨-, d, -, -, h⟩
    · exact ⟨_, h, .inr (.inl ⟨rfl, by simp⟩)⟩
    · exact ⟨_, h, .inl rfl⟩
    · exact ⟨_, h, .inr (.inr (.inl ⟨_, rfl, by simp, rfl, rfl, by simp⟩))⟩
  all_goals
    obtain ⟨t, ht, h⟩ := key _
    refine ⟨t, ht, ?_⟩
    rcases h with h | h | ⟨u, h1, h2, h3⟩
    · exact .inl h
    · exact .inr (.inl ⟨h, by simp⟩)
    · exact .inr (.inr (.inl ⟨u, h1, by simp, h2, h3, by simp⟩))

/-- An access of buffer shape stays inside the buffer (R62). -/
theorem bufferShape_bound {width : Nat} {off : Offset} (h : BufferShape width off) :
    bufIndex off + width / 8 ≤ Config.bufSize := by
  obtain ⟨h1, h2⟩ := h
  have := off.isLt
  unfold bufIndex Config.bufSize
  omega

theorem splitBytes_length {width : Nat} {off : Offset} (v : Word) (h : BufferShape width off) :
    (splitBytes width v).length = width / 8 := by
  obtain ⟨-, rfl | ⟨rfl, -⟩ | ⟨rfl, -⟩⟩ := h <;> rfl

/-- A register write or a buffer write that is no hazard, or the mark of one: every outcome of a host write. -/
theorem hostAccess_write_cases (width : Nat) (off : Offset) (v : Word) (s : State) :
    (∃ f, hostAccess (.write width off v) s = modelFault f s) ∨
    hostAccess (.write width off v) s = s ∨
    (∃ r, (s.status.busy && isOperand r) = false ∧ hostAccess (.write width off v) s = storeReg r v s) ∨
    (BufferShape width off ∧ s.status.busy = false ∧
      hostAccess (.write width off v) s = memWrite (bufIndex off) (splitBytes width v) s) := by
  simp only [hostAccess]
  split
  · exact .inl ⟨_, rfl⟩
  · rename_i hs
    split
    · split
      · rename_i r _
        unfold writeRegister
        split
        · exact .inl ⟨_, rfl⟩
        · exact .inr (.inr (.inl ⟨r, by simp_all, rfl⟩))
      · exact .inr (.inl rfl)
    · rename_i hw
      unfold writeBuffer
      split
      · exact .inl ⟨_, rfl⟩
      · refine .inr (.inr (.inr ⟨?_, by simp_all, rfl⟩))
        simp only [inRegWindow, decide_eq_true_eq, Nat.not_lt] at hw
        simp only [legalShape, inRegWindow, Nat.not_lt.mpr hw] at hs
        exact ⟨hw, by simp at hs; omega⟩

/-- Every outcome of a host read: a model fault, a value, or a free draw; nothing of the block changes. -/
theorem hostAccess_read_cases (width : Nat) (off : Offset) (s : State) :
    (∃ f, hostAccess (.read width off) s = modelFault f s) ∨
    (∃ v, hostAccess (.read width off) s = respond v s) ∨
    (∃ n, hostAccess (.read width off) s = respondAny n s) := by
  simp only [hostAccess, readRegister, readBuffer]
  repeat' split
  all_goals first
    | exact .inl ⟨_, rfl⟩
    | exact .inr (.inl ⟨_, rfl⟩)
    | exact .inr (.inr ⟨_, rfl⟩)

end Sys2Proof.Machine
end

