-- ==== Sys2Proof/Laws/HostPort.lean ====
section
/-! SUPPORT. Where each shape of a host access goes, so that later proofs speak of a register or of the buffer. -/

namespace Sys2Proof.Machine

theorem inRegWindow_of_register {width : Nat} {off : Offset} (h : RegisterShape width off) :
    inRegWindow off = true := decide_eq_true h.1

theorem inRegWindow_of_buffer {width : Nat} {off : Offset} (h : BufferShape width off) :
    inRegWindow off = false := decide_eq_false (Nat.not_lt.mpr h.1)

theorem legalShape_of_register {width : Nat} {off : Offset} (h : RegisterShape width off) :
    legalShape width off = true := by
  simp [legalShape, inRegWindow_of_register h, h.2.1, h.2.2]

theorem legalShape_of_buffer {width : Nat} {off : Offset} (h : BufferShape width off) :
    legalShape width off = true := by
  have := h.2
  simp [legalShape, inRegWindow_of_buffer h]; omega

/-- The model's shape check is the two rules' (R63, R65). -/
theorem legalShape_iff {width : Nat} {off : Offset} :
    legalShape width off = true ↔ RegisterShape width off ∨ BufferShape width off := by
  refine ⟨fun h => ?_, fun h => h.elim legalShape_of_register legalShape_of_buffer⟩
  unfold legalShape inRegWindow at h
  by_cases hw : off.toNat < 0x10000
  · rw [decide_eq_true hw, if_pos rfl] at h; simp at h; exact .inl ⟨hw, h.1, h.2⟩
  · rw [decide_eq_false hw, if_neg (by simp)] at h; simp at h; exact .inr ⟨Nat.not_lt.mp hw, by omega⟩

theorem hostAccess_read_buffer {width : Nat} {off : Offset} (h : BufferShape width off) (s : State) :
    hostAccess (.read width off) s = readBuffer width (bufIndex off) s := by
  simp [hostAccess, legalShape_of_buffer h, inRegWindow_of_buffer h]

theorem hostAccess_write_buffer {width : Nat} {off : Offset} (h : BufferShape width off) (v : Word) (s : State) :
    hostAccess (.write width off v) s = writeBuffer width (bufIndex off) v s := by
  simp [hostAccess, legalShape_of_buffer h, inRegWindow_of_buffer h]

theorem hostAccess_read_reserved {width : Nat} {off : Offset} (h : RegisterShape width off)
    (hr : regAt off = none) (s : State) : hostAccess (.read width off) s = respond 0 s := by
  simp [hostAccess, legalShape_of_register h, inRegWindow_of_register h, hr]

theorem hostAccess_write_reserved {width : Nat} {off : Offset} (h : RegisterShape width off)
    (hr : regAt off = none) (v : Word) (s : State) : hostAccess (.write width off v) s = s := by
  simp [hostAccess, legalShape_of_register h, inRegWindow_of_register h, hr]

theorem registerShape_offset (r : Reg) : RegisterShape 32 (Reg.offset r) := by cases r <;> decide

@[simp] theorem regAt_offset (r : Reg) : regAt (Reg.offset r) = some r := by cases r <;> rfl

theorem hostAccess_read_register (r : Reg) (s : State) :
    hostAccess (.read 32 (Reg.offset r)) s = readRegister r s := by
  have h := registerShape_offset r
  simp [hostAccess, legalShape_of_register h, inRegWindow_of_register h]

theorem hostAccess_write_register (r : Reg) (v : Word) (s : State) :
    hostAccess (.write 32 (Reg.offset r) v) s = writeRegister r v s := by
  have h := registerShape_offset r
  simp [hostAccess, legalShape_of_register h, inRegWindow_of_register h]

/-- A register of the window stands at its own offset only. -/
theorem regAt_eq_some {off : Offset} {r : Reg} (h : regAt off = some r) : off = Reg.offset r := by
  have key : ∀ (o : Offset) (n : Nat), off.toNat = n → o.toNat = n → off = o :=
    fun o n h1 h2 => BitVec.eq_of_toNat_eq (h1.trans h2.symm)
  unfold regAt at h
  split at h <;> cases h <;> exact key _ _ ‹_› rfl

/-- Past OUT_LEN the register window holds no register (R64). -/
theorem regAt_reserved {off : Offset} (h : 0x2C ≤ off.toNat) : regAt off = none := by
  cases hr : regAt off with
  | none => rfl
  | some r => have := regAt_eq_some hr; subst this; revert h; cases r <;> decide

theorem byteEvents_of_lt {b : Nat} (h : b < 0x10000) (x : Byte) :
    byteEvents b x = [lineEvent (.wrb (BitVec.ofNat 16 b) x)] := if_pos h

theorem byteEvents_of_le {b : Nat} (h : 0x10000 ≤ b) (x : Byte) : byteEvents b x = [] := if_neg (Nat.not_lt.mpr h)

/-- Past the end of BUF a `BYTES` line is no access of the block (R69). -/
theorem bytesEvents_of_le {b : Nat} (h : 0x10000 ≤ b) (xs : List Byte) : bytesEvents b xs = [] := by
  induction xs generalizing b with
  | nil => rfl
  | cons x xs ih => rw [bytesEvents, byteEvents_of_le h, ih (Nat.le_succ_of_le h), List.nil_append]

/-- A 32-bit free draw is the free value itself (R271). -/
theorem respondAny_word (s : State) :
    respondAny 32 s = { s with hostData := some (Config.freeWord s.draws), draws := s.draws + 1 } := by
  have : BitVec.ofNat 32 ((Config.freeWord s.draws).toNat % 2 ^ 32) = Config.freeWord s.draws := by
    rw [Nat.mod_eq_of_lt (Config.freeWord s.draws).isLt, BitVec.ofNat_toNat, BitVec.setWidth_eq]
  rw [respondAny, this]

theorem memRead_of_holds {s : State} {off : Nat} {d : List Byte} (h : s.Holds off d) :
    memRead off d.length s = some d := Memory.readRange_eq_some.mpr ⟨rfl, h⟩

theorem memRead_of_written {s : State} {off n : Nat} (h : s.Written off n) :
    ∃ d, d.length = n ∧ s.Holds off d ∧ memRead off n s = some d := by
  cases hr : memRead off n s with
  | none => obtain ⟨k, hk, h0⟩ := Memory.readRange_eq_none.mp hr; exact absurd h0 (h k hk)
  | some d => exact ⟨d, (Memory.readRange_eq_some.mp hr).1, (Memory.readRange_eq_some.mp hr).2, rfl⟩

theorem memRead_of_not_written {s : State} {off n : Nat} (h : ¬ s.Written off n) : memRead off n s = none := by
  cases hr : memRead off n s with
  | none => rfl
  | some d =>
    obtain ⟨h1, h2⟩ := Memory.readRange_eq_some.mp hr
    refine absurd (fun k hk => ?_) h
    rw [h2 k (by omega), List.getElem?_eq_getElem (by omega)]
    exact Option.some_ne_none _

end Sys2Proof.Machine
end

