-- ==== Sys2Proof/Laws/PerInstr.lean ====
section
/-! SUPPORT. The family of statements made for every command, as a term: one lemma per constructor of Instr. -/

namespace Sys2Proof.Laws.WordLegal

/-- A command is well formed, its fields are a legal command word's (R96), and its word is below 6 with every reserved bit
0 (R93, R95). -/
def Statement (i : Instr) : Prop :=
  i.wellFormed = true ∧ i.fields.wellFormed = true ∧ (encode i).toNat < 6 ∧ (fieldsOf (encode i)).rsv = 0

theorem nop : Statement .nop := by unfold Statement; decide
theorem csumRecv : Statement .csumRecv := by unfold Statement; decide
theorem csumSend : Statement .csumSend := by unfold Statement; decide
theorem pseudoSum : Statement .pseudoSum := by unfold Statement; decide
theorem encode : Statement .encode := by unfold Statement; decide
theorem decode : Statement .decode := by unfold Statement; decide

end Sys2Proof.Laws.WordLegal
end

