-- ==== Sys2Proof/Tests/Slice0.lean ====
section
/-! SUPPORT. The model's own tests: ill-formed terms that WellFormed refuses, command words written out from R90 and R95,
one-step vectors of 95_test_vectors.md, and a witness for the hypotheses of every statement. -/

namespace Sys2Proof.Tests

open Sys2Proof.Machine

/-! ### Helpers: small states, and the state after a step -/

/-- The state an outcome answers (State.reset where it answers none). -/
def after : Host.Outcome State Fault Refusal → State
  | .next t => t
  | .fault _ => State.reset
  | .refused _ => State.reset

/-- The buffer that holds `d` from `off` on. -/
def cells : Nat → List Byte → Memory
  | _, [] => []
  | off, b :: d => (off, b) :: cells (off + 1) d

/-- A command word `w` in flight over the buffer bytes `d` from `off` on. -/
def flight (w : Word) (len : Half) (src dst ports : Word) (off : Nat) (d : List Byte) : State :=
  { State.reset with
    cmd := w, pend := some w, status := statusIssued, len := len, srcIp := src, dstIp := dst, ports := ports
    mem := cells off d }

/-- The source's first datagram (R130, L1-1). -/
def dgram1 : List Byte := [0xA0, 0x8F, 0x26, 0x94, 0x00, 0x0A, 0x00, 0x00, 0x62, 0x62]

/-- The source's second datagram (L1-3). -/
def dgram2 : List Byte := [0xE6, 0x55, 0x1F, 0x90, 0x00, 0x0C, 0xFE, 0x1F, 0x74, 0x65, 0x73, 0x74]

/-- "hello" (V-E1). -/
def hello : List Byte := [0x68, 0x65, 0x6C, 0x6C, 0x6F]

/-- Eight header bytes, the shortest datagram (R144). -/
def dgram8 : List Byte := [0xFF, 0xDE, 0x00, 0x00, 0x00, 0x08, 0xFF, 0xFF]

def recv1 : State := flight 1 10 0x9801331B 0x980E5E4B 0 0 dgram1
def send1 : State := flight 2 10 0x9801331B 0x980E5E4B 0 0 dgram1
def pseudo1 : State := flight 3 12 0x7F000001 0x7F000001 0 0 dgram2
def enc1 : State := flight 4 5 0x7F000001 0x7F000001 0x1F911F90 8 hello
def dec1 : State := flight 5 12 0x7F000001 0x7F000001 0x00001F90 0 dgram2
def dec8 : State := flight 5 8 0 0 0 0 dgram8
def bare (w : Word) (len : Half) : State := flight w len 0 0 0 0 []
def idle8 : State := { State.reset with mem := cells 0 dgram8 }

/-! ### WellFormed smoke: each check refuses an ill-formed term -/

theorem test_wf_accepts_decode : CmdFields.wellFormed { rsv := 0, aw := 0, op := 5 } = true := by decide
theorem test_wf_refuses_reserved_bit : CmdFields.wellFormed { rsv := 1, aw := 0, op := 1 } = false := by decide
theorem test_wf_refuses_address_width : CmdFields.wellFormed { rsv := 0, aw := 1, op := 1 } = false := by decide
theorem test_wf_refuses_reserved_opcode : CmdFields.wellFormed { rsv := 0, aw := 0, op := 6 } = false := by decide
theorem test_wf_refuses_odd_wrh : (HostLine.wrh 9 0x6262).wellFormed = false := by decide
theorem test_wf_refuses_odd_rdh : (HostLine.rdh 1).wellFormed = false := by decide
theorem test_wf_refuses_unaligned_wrw : (HostLine.wrw 2 0).wellFormed = false := by decide
theorem test_wf_refuses_unaligned_rdw : (HostLine.rdw 6).wellFormed = false := by decide

/-! ### Decoding: words written out from R90 and R95 (OP in bits [3:0], AW bit [4], RSV above), and R97 to R100 -/

theorem test_decode_nop : decodeTableWord 32 0b00000000000000000000000000000000 = some .nop := by decide
theorem test_decode_csum_recv : decodeTableWord 32 0b00000000000000000000000000000001 = some .csumRecv := by decide
theorem test_decode_csum_send : decodeTableWord 32 0b00000000000000000000000000000010 = some .csumSend := by decide
theorem test_decode_pseudo_sum : decodeTableWord 32 0b00000000000000000000000000000011 = some .pseudoSum := by decide
theorem test_decode_encode : decodeTableWord 32 0b00000000000000000000000000000100 = some .encode := by decide
theorem test_decode_decode : decodeTableWord 32 0b00000000000000000000000000000101 = some .decode := by decide
/-- V-X1, V-X2, V-X5, V-X6, V-X7. -/
theorem test_decode_illegal :
    [0x06, 0x0F, 0x20, 0x16, 0x10, 0x80000001].map decodeCmd = List.replicate 6 (.error .illegalCmd) := by decide
/-- V-X4 and R99. -/
theorem test_decode_address_width :
    [0x11, 0x12, 0x13, 0x14, 0x15].map decodeCmd = List.replicate 5 (.error .addrWidth) := by decide
theorem test_encode_words :
    [Instr.nop, .csumRecv, .csumSend, .pseudoSum, .encode, .decode].map encode = [0, 1, 2, 3, 4, 5] := by decide
/-- R106. -/
theorem test_disassemble : disassemble 0x00000005 = "DECODE" ∧ disassemble 0x0000001F = ".cmd 0x0000001F" := by decide

/-! ### One-step vectors of 95_test_vectors.md -/

/-- V-N1: RESULT stays. -/
theorem test_nop_keeps_result :
    (after (exec .nop { bare 0 0 with result := 0x0000EB21 })).result = 0x0000EB21 := by decide
theorem test_nop_status : statusWord (after (exec .nop (bare 0 0))).status = 0x00000002 := by decide
/-- L1-1. -/
theorem test_csum_recv_source : (after (exec .csumRecv recv1)).result = 0x0000EB21 := by decide
/-- V-R4: the pad byte is appended. -/
theorem test_csum_recv_odd :
    (after (exec .csumRecv (flight 1 9 0x0A000001 0x0A000002 0 0 [0, 1, 0, 2, 0, 9, 0, 0, 0xAB]))).result = 0x0000BF29 := by
  decide
/-- L1-2. -/
theorem test_csum_send_source : (after (exec .csumSend send1)).result = 0x000014DE := by decide
/-- V-S5: the 0x0000 substitution, then the complement. -/
theorem test_csum_send_zero :
    (after (exec .csumSend (flight 2 8 0xFFFFFFEF 0 0 0 [0, 0, 0, 0, 0, 0, 0, 0]))).result = 0x00000000 := by decide
/-- L1-3. -/
theorem test_pseudo_sum_source : (after (exec .pseudoSum pseudo1)).result = 0x0000FE1F := by decide
/-- V-P3: the carry of the single fold is dropped. -/
theorem test_pseudo_sum_dropped_carry :
    (after (exec .pseudoSum (flight 3 8 0xFFFFFFFF 0xFFFFFFFE 0 0 [0, 0, 0, 0, 0xFF, 0xF2, 0, 0]))).result = 2 := by
  decide
/-- V-E1. -/
theorem test_encode_hello :
    (after (exec .encode enc1)).mem.readRange 0 13 = some ([0x1F, 0x91, 0x1F, 0x90, 0x00, 0x0D, 0x7E, 0xDE] ++ hello) ∧
    (after (exec .encode enc1)).outLen = 13 := by decide
/-- V-E3: the checksum 0x0000 is emitted. -/
theorem test_encode_zero_checksum :
    (after (exec .encode (flight 4 0 0 0 0xFFDE0000 8 []))).mem.readRange 0 8
      = some [0xFF, 0xDE, 0x00, 0x00, 0x00, 0x08, 0x00, 0x00] := by decide
/-- V-D1: accepted by the fallback alone. -/
theorem test_decode_fallback :
    statusWord (after (exec .decode dec1)).status = 0x0000002A ∧ (after (exec .decode dec1)).result = 0xFE1FEBEB ∧
    (after (exec .decode dec1)).rxPorts = 0xE6551F90 ∧ (after (exec .decode dec1)).rxFields = 0x000CFE1F ∧
    (after (exec .decode dec1)).outLen = 4 := by decide
/-- V-D10: r = ck = 0xFFFF fails the modular check. -/
theorem test_decode_all_ones_rejected :
    statusWord (after (exec .decode dec8)).status = 0x00000052 ∧ (after (exec .decode dec8)).result = 0x0019FFFF := by
  decide
/-- V-X14 and R27: LEN bits [31:16] are dropped. -/
theorem test_len_write_drops_high_half : (hostAccess (lineAccess (.wr .len 0x12345678)) State.reset).len = 0x5678 := by
  decide
/-- V-X13. -/
theorem test_bus_errors :
    (hostAccess (.read 16 0x00008) State.reset).fault = some .hostBusError ∧
    (hostAccess (.read 32 0x10002) State.reset).fault = some .hostBusError := by decide
/-- R68: a wide write read back by halves and by bytes. -/
theorem test_mixed_widths :
    (hostAccess (.read 16 0x10002) (hostAccess (.write 32 0x10000 0x1F911F90) State.reset)).hostData = some 0x1F90 ∧
    (hostAccess (.read 8 0x10001) (hostAccess (.write 32 0x10000 0x1F911F90) State.reset)).hostData = some 0x91 := by
  decide
/-- R105, R69: the byte after BUF's last is no access of the block's. -/
theorem test_bytes_end_with_the_buffer : bytesEvents 0xFFFF [0xAA, 0xBB] = [.host (.write 8 0x1FFFF 0xAA)] := by decide
/-- R178, R174: a failed check returns the header and the two checksums, and no payload. -/
theorem test_rejected_result_has_no_payload :
    decodeDatagram dgram8 0 0 0 = .rejCsum (parseHeader dgram8) 0xFFFF 0x0019 := by decide
/-- R62, R69: the base of the block is its offset 0. -/
theorem test_block_offset : blockOffset Config.blockBase = some 0 := by simp [blockOffset]
/-- The word a row of the opcode table gives is the first command run after reset. -/
theorem test_fetch_word_runs_encode : step (State.reset.withFetchWord 32 4) =
    exec .encode { State.reset with cmd := 4, pend := some 4, status := statusIssued } := by rfl

/-! ### Witnesses: for every statement with hypotheses, a state and operands that meet them; one per clause -/

theorem witness_WellFormedLinesAreLegalAccesses :
    ((HostLine.wrh 0xFFFE 0).wellFormed = true ∧ (HostLine.rdw 0xFFFC).wellFormed = true ∧
      (HostLine.rd .outLen).wellFormed = true ∧ (HostLine.wrb 0xFFFF 0).wellFormed = true) ∧
    ((Reg.outLen, (0x00028 : Offset)) ∈ [(Reg.ctrl, (0x00000 : Offset)), (.cmd, 0x00004), (.status, 0x00008),
      (.len, 0x0000C), (.srcIp, 0x00010), (.dstIp, 0x00014), (.ports, 0x00018), (.result, 0x0001C), (.rxPorts, 0x00020),
      (.rxFields, 0x00024), (.outLen, 0x00028)]) ∧
    ((0x1FFFF : Offset).toNat = 0x10000 + (0xFFFF : Half).toNat ∧ (0x10000 : Offset).toNat = 0x10000 + (0 : Half).toNat) ∧
    (([0xAA, 0xBB] : List Byte)[0]? = some 0xAA ∧ 0xFFFF + 0 < 0x10000) := by decide
theorem witness_DecodeAndEncodeAgreeOnEveryField :
    decodeCmd (encodeFields { rsv := 0, aw := 0, op := 5 }) = .ok .decode ∧ Instr.decode.wellFormed = true := by decide
theorem witness_StepRunsTheDecodedCommand :
    recv1.EngineNext 1 ∧ decodeCmd 1 = .ok .csumRecv ∧ Instr.csumRecv.wellFormed = true := by decide
theorem witness_EngineDoesNothingWithoutACommand :
    State.reset.fault = none ∧ State.reset.pend = none ∧ State.reset.agenda = [] := by decide
theorem witness_StepPerformsTheHostAccess :
    State.HostNext { State.reset with agenda := [.host (.read 32 0x00008)] } (.read 32 0x00008) := by decide
theorem witness_NoAgentStepsAfterAModelFault :
    (modelFault .uninitRead recv1).fault = some .uninitRead ∧
    (modelFault .uninitRead recv1).agenda.head? ≠ some .reset := by decide
theorem witness_NoStepClearsAModelFault :
    step { State.reset with fault := some .hostBusError, agenda := [.reset] }
      = .next { State.reset with fault := some .hostBusError } := by rfl
theorem witness_SafeRunIsSafeThroughout : SafeRun 2 State.reset State.reset := ⟨rfl, rfl⟩
theorem witness_CompletionStepEndsTheCommand : (bare 0 0).EngineNext 0 ∧ (bare 1 8).EngineNext 1 := by decide
theorem witness_CompletionSetsExactlyOneOfDoneAndErr :
    (bare 0 0).EngineNext 0 ∧ (bare 0 0).status = statusIssued ∧
    step (bare 0 0) = .next (succeed (bare 0 0)) ∧ (succeed (bare 0 0)).fault = none :=
  ⟨by decide, rfl, rfl, rfl⟩
theorem witness_EveryStepKeepsTheInvariant :
    dec8.Inv ∧ step dec8 = .next (after (step dec8)) := ⟨by decide, rfl⟩
theorem witness_ResetLeavesEveryRegisterZero : platformReset dec8 = State.reset := by decide
theorem witness_ResetAbandonsTheCommandInFlight :
    ({ dec8 with agenda := [.reset] } : State).agenda.head? = some .reset := by decide
theorem witness_CsumRecvGivesReceiveChecksum :
    dgram8.length = (flight 1 8 0 0 0 0 dgram8).len.toNat ∧ 8 ≤ dgram8.length ∧
    (flight 1 8 0 0 0 0 dgram8).Holds 0 dgram8 := by decide
theorem witness_CsumSendGivesSendChecksum :
    dgram1.length = send1.len.toNat ∧ 8 ≤ dgram1.length ∧ send1.Holds 0 dgram1 := by decide
theorem witness_PseudoSumGivesPseudoHeaderSum :
    dgram2.length = pseudo1.len.toNat ∧ 8 ≤ dgram2.length ∧ pseudo1.Holds 0 dgram2 := by decide
theorem witness_EncodeBuildsTheDatagramInPlace :
    hello.length = enc1.len.toNat ∧ hello.length ≤ 65527 ∧ enc1.Holds 8 hello ∧
    ([] : List Byte).length = (bare 4 0).len.toNat ∧ (bare 4 0).Holds 8 [] := by decide
theorem witness_DecodeReportsTheVerdict :
    (bare 5 7).len.toNat < 8 ∧ dgram8.length = dec8.len.toNat ∧ 8 ≤ dgram8.length ∧ dec8.Holds 0 dgram8 ∧
    Verdict.rejCsum = (if be16 dgram8 2 ≠ dec8.ports.extractLsb' 0 16 then .rejPort
      else if receiveChecksum dgram8 dec8.srcIp dec8.dstIp + be16 dgram8 6 = 0xFFFF then .accFull
      else if pseudoHeaderSum dgram8 dec8.srcIp dec8.dstIp = be16 dgram8 6 then .accPseudo
      else .rejCsum) := by decide
theorem witness_ReservedWordsCompleteWithIllegalCmd :
    (bare 0x20 0).EngineNext 0x20 ∧ (0x20 : Word).extractLsb' 5 27 ≠ 0 ∧
    (bare 6 0).EngineNext 6 ∧ 6 ≤ ((6 : Word).extractLsb' 0 4).toNat ∧ (bare 0x10 0).EngineNext 0x10 := by decide
theorem witness_SixteenByteAddressWordsCompleteWithAddrWidth :
    (bare 0x11 0).EngineNext 0x11 ∧ 0x11 ≤ (0x11 : Word).toNat ∧ (0x11 : Word).toNat ≤ 0x15 ∧
    (bare 0x15 0).EngineNext 0x15 := by decide
theorem witness_LenRangeIsRaisedInTwoCases :
    (bare 1 7).len.toNat < 8 ∧ 65527 < (bare 4 65528).len.toNat ∧ exec .decode (bare 5 7) =
      .next (after (exec .decode (bare 5 7))) := ⟨by decide, by decide, rfl⟩
theorem witness_FirstErrorInPriorityIsRaised :
    (bare 0x16 0).EngineNext 0x16 ∧ (bare 0x11 0).EngineNext 0x11 ∧ (bare 3 7).EngineNext 3 ∧
    (bare 4 65528).EngineNext 4 ∧ (bare 0 0).EngineNext 0 := by decide
theorem witness_UnwrittenBytesRaiseUninitRead :
    (8 ≤ (bare 1 8).len.toNat ∧ ¬ (bare 1 8).Written 0 8) ∧
    ((bare 4 1).len.toNat ≤ 65527 ∧ ¬ (bare 4 1).Written 8 1) ∧
    (BufferShape 8 0x10000 ∧ ¬ State.reset.Written ((0x10000 : Offset).toNat - 0x10000) (8 / 8)) := by decide
theorem witness_ReadingCommandsKeepBufferAndOperands :
    Instr.nop ≠ Instr.encode ∧ exec .nop recv1 = .next (succeed recv1) := ⟨by decide, rfl⟩
theorem witness_EncodeKeepsAllButTheHeader : exec .encode enc1 = .next (after (exec .encode enc1)) := by rfl
theorem witness_CommandsChangeStatusOnlyAsCompleted :
    exec .decode dec8 = .next (after (exec .decode dec8)) := by rfl
theorem witness_FoldIsTheResidueModulo0xFFFF :
    0xFFFF < 2 ^ 32 - 1 ∧ 2 ^ 32 - 1 < 2 ^ 32 ∧ (0xFFFF : Half) ≠ 0 ∧ 0xFFFF ≠ 0 ∧
    (0xFFFF : Half).toNat % 0xFFFF = 0xFFFF % 0xFFFF := by decide
theorem witness_SingleFoldDropsItsCarry : 0x1FFFF < 2 ^ 32 ∧ fold1 0x1FFFF ≠ fold 0x1FFFF := by decide
theorem witness_DroppedCarryHappensExactlyThere :
    be16 [0, 0, 0, 0, 0xFF, 0xF2, 0, 0] 4 = 0xFFF2 ∧ pseudoAddends dgram2 0x7F000001 0x7F000001 < 0x10000 := by decide
theorem witness_AccumulatorCannotOverflow : dgram1.length ≤ 65535 := by decide
theorem witness_ExcisedWordsSumAsZeroedOnes :
    8 ≤ dgram8.length ∧ dgram8.length % 2 = 0 := by decide
theorem witness_PseudoHeaderSumAddsTheSixWords :
    8 ≤ dgram8.length ∧ 0x19 = (byteAt dgram8 4).toNat * 256 + (byteAt dgram8 5).toNat + (0 : Word).toNat / 65536
      + (0 : Word).toNat % 65536 + (0 : Word).toNat / 65536 + (0 : Word).toNat % 65536 + 17 := by decide
theorem witness_ReceiveChecksumIsNeverZero :
    (8 ≤ dgram1.length ∧ dgram1.length ≤ 65535 ∧ (0xEB21 : Half) ≠ 0 ∧ (0xEB21 : Half).toNat % 0xFFFF
      = (sumWords (words dgram1) + (pseudoHeaderSum dgram1 0x9801331B 0x980E5E4B).toNat) % 0xFFFF) ∧
    (List.replicate 8 (0 : Byte)).length ≤ 65535 ∧
    fold ((fold (sumWords (words (List.replicate 8 0)))).toNat
      + (pseudoHeaderSum (List.replicate 8 0) 0xFFFFFFEF 0).toNat) = 0 := by decide

/-- A datagram that differs from `dgram8` in its bytes 6 and 7 alone. -/
theorem dgram8_otherwise (a b : Byte) : ∀ k, k ≠ 6 → k ≠ 7 →
    ([0xFF, 0xDE, 0x00, 0x00, 0x00, 0x08, a, b] : List Byte)[k]? = dgram8[k]? := by
  intro k h6 h7
  match k with
  | 0 | 1 | 2 | 3 | 4 | 5 => rfl
  | 6 => exact absurd rfl h6
  | 7 => exact absurd rfl h7
  | _ + 8 => rfl

theorem witness_ReceiveChecksumIgnoresOrderAndOwnField :
    ([0xFF, 0xDE, 0x00, 0x00, 0x00, 0x08, 0x12, 0x34] : List Byte).length = dgram8.length ∧
    ∀ k, k ≠ 6 → k ≠ 7 → ([0xFF, 0xDE, 0x00, 0x00, 0x00, 0x08, 0x12, 0x34] : List Byte)[k]? = dgram8[k]? :=
  ⟨rfl, dgram8_otherwise _ _⟩
theorem witness_SendChecksumIsTheComplement : 8 ≤ dgram8.length := by decide
theorem witness_DatagramVerifiesItself :
    8 ≤ dgram8.length ∧ ([0xFF, 0xDE, 0x00, 0x00, 0x00, 0x08, 0x00, 0x00] : List Byte).length = dgram8.length ∧
    (∀ k, k ≠ 6 → k ≠ 7 → ([0xFF, 0xDE, 0x00, 0x00, 0x00, 0x08, 0x00, 0x00] : List Byte)[k]? = dgram8[k]?) ∧
    be16 [0xFF, 0xDE, 0x00, 0x00, 0x00, 0x08, 0x00, 0x00] 6 = sendChecksum dgram8 0 0 :=
  ⟨by decide, rfl, dgram8_otherwise _ _, by decide⟩
theorem witness_EncodedDatagramLayout :
    hello.length ≤ 65527 ∧ ([0x1F, 0x91, 0x1F, 0x90, 0x00, 0x0D, 0x7E, 0xDE] ++ hello)
      = encodeDatagram hello 0x1F91 0x1F90 0x7F000001 0x7F000001 := by decide
theorem witness_DecodingAnEncodedDatagramRecoversIt :
    ([] : List Byte).length ≤ 65527 ∧ ([0x00, 0x01, 0x00, 0x02, 0x00, 0x08, 0xEB, 0xD8] : List Byte)
      = encodeDatagram [] 1 2 0x0A000001 0x0A000002 := by decide
theorem witness_OnlyMatchingVerifiedDatagramsAreAccepted :
    exec .decode dec1 = .next (after (exec .decode dec1)) ∧ dec1.status.accept = false ∧
    (after (exec .decode dec1)).status.accept = true := ⟨rfl, by decide, by decide⟩
theorem witness_EncodeThenDecodeDeliversThePayload :
    enc1.len.toNat ≤ 65527 ∧ enc1.Written 8 enc1.len.toNat := by decide
theorem witness_EncodeThenCsumRecvSumsToAllOnes :
    (bare 4 0).len.toNat ≤ 65527 ∧ (bare 4 0).Written 8 (bare 4 0).len.toNat := by decide
theorem witness_CmdWriteIssuesTheCommand : State.reset.status.busy = false ∧ recv1.status.busy = true := by decide
theorem witness_OperandWritesInFlightAreHazards :
    recv1.status.busy = true ∧ BufferShape 32 0x1FFFC ∧ BufferShape 8 0x10000 ∧
    RegisterShape 32 0x0001C ∧ 0x0001C ≤ (0x0001C : Offset).toNat ∧ RegisterShape 32 0x0FFFC := by decide
theorem witness_OutputReadsInFlightAreFreshDraws :
    recv1.status.busy = true ∧ BufferShape 16 0x10008 ∧ recv1.Written ((0x10008 : Offset).toNat - 0x10000) (16 / 8) ∧
    BufferShape 16 0x1000A ∧ ¬ recv1.Written ((0x1000A : Offset).toNat - 0x10000) (16 / 8) := by decide
theorem witness_StatusWriteClearsDoneAndErr : recv1.status.Legal ∧ recv1.status.busy = true := by decide
theorem witness_OperandWritesStoreWhenNotBusy :
    State.reset.status.busy = false ∧ (0x00028 : Offset) ∈ ([0x0001C, 0x00020, 0x00024, 0x00028] : List Offset) := by
  decide
theorem witness_RegisterReadsReturnCurrentValues :
    ((0x0001C : Offset) = 0x0001C ∧ (0x0000EB21 : Word) = { State.reset with result := 0x0000EB21 }.result) ∧
    ((0x00028 : Offset) = 0x00028 ∧ (0x0000FFFF : Word) = BitVec.ofNat 32 { State.reset with outLen := 0xFFFF }.outLen.toNat)
    := by decide
theorem witness_ReservedOffsetsReadZeroAndIgnoreWrites :
    (RegisterShape 32 0x0002C ∧ 0x0002C ≤ (0x0002C : Offset).toNat) ∧
    (RegisterShape 32 0x0FFFC ∧ 0x0002C ≤ (0x0FFFC : Offset).toNat) := by decide
theorem witness_IllegalShapesAreHostBusErrors :
    (¬ RegisterShape 16 0x00008 ∧ ¬ BufferShape 16 0x00008) ∧ (¬ RegisterShape 32 0x1FFFE ∧ ¬ BufferShape 32 0x1FFFE) ∧
    (¬ RegisterShape 24 0x10000 ∧ ¬ BufferShape 24 0x10000) := by decide
/-- The shapes of `witness_IllegalShapesAreHostBusErrors` in a state with BUSY = 1 (log 7). -/
theorem witness_IllegalShapesInFlight :
    recv1.status.busy = true ∧ ¬ RegisterShape 16 0x10001 ∧ ¬ BufferShape 16 0x10001 ∧
    (hostAccess (.write 16 0x10001 0) recv1).fault = some .hostBusError := by decide
theorem witness_BufferReadsAreBigEndian :
    idle8.status.busy = false ∧
    (BufferShape 32 0x10004 ∧ [0x00, 0x08, 0xFF, 0xFF].length = 32 / 8 ∧
      idle8.Holds ((0x10004 : Offset).toNat - 0x10000) [0x00, 0x08, 0xFF, 0xFF]) ∧
    (BufferShape 16 0x10000 ∧ idle8.Holds ((0x10000 : Offset).toNat - 0x10000) [0xFF, 0xDE]) ∧
    (BufferShape 8 0x10007 ∧ idle8.Holds ((0x10007 : Offset).toNat - 0x10000) [0xFF]) := by decide
theorem witness_BufferWritesAreBigEndian :
    idle8.status.busy = false ∧ BufferShape 32 0x1FFFC ∧ BufferShape 16 0x1FFFE ∧ BufferShape 8 0x1FFFF := by decide
theorem witness_HostReadsHaveNoSideEffects :
    respond 0x00000001 recv1 = hostAccess (.read 32 0x00008) recv1 := by decide
theorem witness_IrqFollowsCompletionAndAcknowledgement :
    ((bare 0 0).EngineNext 0 ∧ step (bare 0 0) = .next (succeed (bare 0 0)) ∧ (succeed (bare 0 0)).fault = none) ∧
    (((succeed (bare 0 0)).status.done = true → (0x00000006 : Word).getLsbD 1 = true) ∧
      ((succeed (bare 0 0)).status.err = true → (0x00000006 : Word).getLsbD 2 = true)) ∧
    State.reset.status.busy = false ∧ (0xFFFFFFFE : Word).getLsbD 0 = false :=
  ⟨⟨by decide, rfl, rfl⟩, by decide, rfl, by decide⟩

end Sys2Proof.Tests
end

section
/-! Proofs about the state (10_state.md): what a reset leaves in the registers (R52), and when IRQ is raised and
lowered (R50). -/

namespace Sys2Proof.Machine

/-! ### Reset -/

@[simp] theorem pair_zero_zero : pair 0#16 0#16 = 0#32 := by decide

@[simp] theorem statusWord_zero : statusWord Status.zero = 0#32 := by decide

@[simp] theorem platformReset_reset : platformReset State.reset = State.reset := rfl

@[simp] theorem readReg_platformReset (r : Reg) (s : State) : readReg r (platformReset s) = 0 := by
  cases r <;> simp [readReg]

/-- Settles O15: the state after reset is itself the reset of a state, so one reading of `platformReset`, register by
register, serves both. -/
theorem resetLeavesEveryRegisterZero : Obligations.ResetLeavesEveryRegisterZero := by
  intro s t ht
  obtain ⟨u, rfl⟩ : ∃ u, t = platformReset u := by
    rcases ht with rfl | rfl
    · exact ⟨State.reset, platformReset_reset.symm⟩
    · exact ⟨s, rfl⟩
  exact ⟨fun r => readReg_platformReset r u, rfl, rfl, fun _ => rfl, rfl, rfl⟩

/-! ### Host writes of CTRL, CMD and STATUS -/

/-- Where R270 forbids nothing, a host write of a register stores. -/
theorem writeRegister_of_allowed {r : Reg} {s : State} (h : (s.status.busy && isOperand r) = false) (v : Word) :
    writeRegister r v s = storeReg r v s := by
  simp [writeRegister, h]

theorem hostAccess_write_ctrl (v : Word) (s : State) :
    hostAccess (.write 32 0x00000 v) s = { s with irqEn := v.getLsbD 0 } :=
  (hostAccess_write_register .ctrl v s).trans (writeRegister_of_allowed (by simp [isOperand]) v)

theorem hostAccess_write_cmd {s : State} (h : s.status.busy = false) (w : Word) :
    hostAccess (.write 32 0x00004 w) s = issue w s :=
  (hostAccess_write_register .cmd w s).trans (writeRegister_of_allowed (by simp [h]) w)

theorem hostAccess_write_status (v : Word) (s : State) :
    hostAccess (.write 32 0x00008 v) s = acknowledge v s :=
  (hostAccess_write_register .status v s).trans (writeRegister_of_allowed (by simp [isOperand]) v)

/-! ### The interrupt line -/

theorem irq_eq_true_iff (s : State) :
    s.irq = true ↔ s.irqEn = true ∧ (s.status.done = true ∨ s.status.err = true) := by
  simp [State.irq]

theorem irq_of_disabled {s : State} (h : s.irqEn = false) : s.irq = false := by simp [State.irq, h]

@[simp] theorem succeed_irq (s : State) : (succeed s).irq = s.irqEn := by simp [State.irq]

@[simp] theorem errorCompletion_irq (e : CmdError) (s : State) : (errorCompletion e s).irq = s.irqEn := by
  simp [State.irq]

@[simp] theorem issue_irq (w : Word) (s : State) : (issue w s).irq = false := by simp [State.irq]

/-- An acknowledgement that names whichever of DONE and ERR is set lowers IRQ (R50, R207). -/
theorem acknowledge_irq {v : Word} {s : State} (hdone : s.status.done = true → v.getLsbD 1 = true)
    (herr : s.status.err = true → v.getLsbD 2 = true) : (acknowledge v s).irq = false := by
  have hd : (acknowledge v s).status.done = false := by simpa using hdone
  have he : (acknowledge v s).status.err = false := by simpa using herr
  rw [State.irq, hd, he, Bool.or_self, Bool.and_false]

/-! ### A completion keeps CTRL, so it raises IRQ where IRQ_EN is set -/

theorem checksumCommand_irqEn {f : List Byte → Word → Word → Half} {s t : State}
    (h : checksumCommand f s = .next t) : t.irqEn = s.irqEn := by
  rcases checksumCommand_cases f s with ⟨-, e⟩ | ⟨-, -, e⟩ | ⟨-, _, -, -, e⟩ <;> cases e.symm.trans h <;> simp

@[simp] theorem reportDecode_irqEn (n : Nat) (r : DecodeResult) (s : State) :
    (reportDecode n r s).irqEn = s.irqEn := by
  obtain ⟨_, _, _, _, e⟩ := reportDecode_eq n r s
  simp [e]

/-- No command writes CTRL. -/
theorem exec_irqEn {i : Instr} {s t : State} (h : exec i s = .next t) : t.irqEn = s.irqEn := by
  cases i with
  | nop => cases h; rfl
  | csumRecv | csumSend | pseudoSum => exact checksumCommand_irqEn h
  | encode =>
    rcases execEncode_cases s with ⟨-, e⟩ | ⟨-, -, e⟩ | ⟨-, _, -, -, e⟩ <;> cases e.symm.trans h <;> simp
  | decode =>
    rcases execDecode_cases s with ⟨-, e⟩ | ⟨-, -, e⟩ | ⟨-, _, -, -, e⟩ <;> cases e.symm.trans h <;> simp

/-- A command that completes without a model fault sets DONE or ERR, so IRQ is then IRQ_EN (R50). -/
theorem exec_irq {i : Instr} {s t : State} (h : exec i s = .next t) (hf : t.fault = none) : t.irq = s.irqEn := by
  have hen := exec_irqEn h
  obtain ⟨t', h', hcases⟩ := exec_cases i s
  cases h.symm.trans h'
  rcases hcases with rfl | ⟨rfl, -⟩ | ⟨u, rfl, -⟩ | ⟨-, v, a, b, c, o, rfl⟩
  · simp at hf
  · exact errorCompletion_irq _ s
  · exact (succeed_irq u).trans hen
  · simp

/-- The engine's completion step, whether its word is a command or not, leaves IRQ at IRQ_EN (R50, R203). -/
theorem completion_irq {s t : State} {w : Word} (hw : s.EngineNext w) (h : step s = .next t) (hf : t.fault = none) :
    t.irq = s.irqEn := by
  rw [step_of_engineNext hw] at h
  split at h
  · cases h; simp
  · exact (exec_irq h hf).trans (advance_irqEn s)

/-- Settles O60: R50's equation, and what a completion, an acknowledgement, an issue and a write of CTRL make of it. -/
theorem irqFollowsCompletionAndAcknowledgement : Obligations.IrqFollowsCompletionAndAcknowledgement := by
  refine ⟨irq_eq_true_iff, rfl, fun _ _ _ => completion_irq, fun s v hdone herr => ?_, fun s w hbusy => ?_,
    fun s v hv => ?_⟩
  · rw [hostAccess_write_status]
    exact acknowledge_irq hdone herr
  · rw [hostAccess_write_cmd hbusy]
    exact issue_irq w s
  · rw [hostAccess_write_ctrl]
    exact irq_of_disabled hv

end Sys2Proof.Machine
end

section
/-! Proofs about the host's view of the block (20_memory.md): what a reserved offset of the register window does (R64),
and which bytes a host write of the buffer stores (R66). -/

namespace Sys2Proof.Machine

/-- Settles O55: past OUT_LEN the register window holds no register, so an access there takes R64's branch. -/
theorem reservedOffsetsReadZeroAndIgnoreWrites : Obligations.ReservedOffsetsReadZeroAndIgnoreWrites := by
  intro s off v hshape hoff
  have hnone : regAt off = none := regAt_reserved hoff
  exact ⟨hostAccess_read_reserved hshape hnone s, hostAccess_write_reserved hshape hnone v s⟩

/-! ### Host writes of the buffer -/

/-- The byte of a word that starts at bit `i`, as a quotient of the word's number. -/
theorem extractByte_eq_ofNat (v : Word) (i : Nat) : v.extractLsb' i 8 = BitVec.ofNat 8 (v.toNat / 2 ^ i) := by
  rw [BitVec.extractLsb', Nat.shiftRight_eq_div_pow]

/-- R66's byte order: the byte stored at index `k` starts `k + 1` bytes below the top of the written value. -/
theorem getElem?_splitBytes {width : Nat} {off : Offset} (h : BufferShape width off) (v : Word) {k : Nat}
    (hk : k < width / 8) :
    (splitBytes width v)[k]? = some (BitVec.ofNat 8 (v.toNat / 2 ^ (width - 8 * (k + 1)))) := by
  rw [← extractByte_eq_ofNat]
  obtain ⟨-, rfl | ⟨rfl, -⟩ | ⟨rfl, -⟩⟩ := h
  · interval_cases k; rfl
  · interval_cases k <;> rfl
  · interval_cases k <;> rfl

/-- With no command in flight, a host write of the buffer is the write of the value's bytes (R66, R270). -/
theorem hostAccess_write_buffer_idle {width : Nat} {off : Offset} {s : State} (hbusy : s.status.busy = false)
    (h : BufferShape width off) (v : Word) :
    hostAccess (.write width off v) s = memWrite (bufIndex off) (splitBytes width v) s := by
  simp [hostAccess_write_buffer h, writeBuffer, hbusy]

/-- Settles O58: the access is a `memWrite` of the value's bytes, which reads back inside the written range and changes
nothing outside it. -/
theorem bufferWritesAreBigEndian : Obligations.BufferWritesAreBigEndian := by
  intro s width off v hbusy hshape
  have hlen : (splitBytes width v).length = width / 8 := splitBytes_length v hshape
  refine ⟨_, rfl, ?_⟩
  rw [hostAccess_write_buffer_idle hbusy hshape]
  refine ⟨rfl, fun k hk => ?_, fun a ha => ?_⟩
  · calc (s.mem.writeBytes (bufIndex off) (splitBytes width v)).read (bufIndex off + k)
        = (splitBytes width v)[k]? := Memory.read_writeBytes_inside _ _ _ (hlen.symm ▸ hk)
      _ = _ := getElem?_splitBytes hshape v hk
  · exact Memory.read_writeBytes_outside _ _ _ (hlen.symm ▸ ha)

end Sys2Proof.Machine
end

section
/-! Proofs about the decoder of command words (30_encoding.md): which words are no command (R97, R98, R100), the
partition of all words (R96, R101), and the completion of a reserved word (R223). -/

namespace Sys2Proof.Machine

/-! ### Reserved words -/

/-- A reserved bit is set exactly in the words from 0x20 up (R90, R98). -/
theorem rsv_ne_zero_iff (w : Word) : w.extractLsb' 5 27 ≠ 0 ↔ 32 ≤ w.toNat := by
  have hrsv : (w.extractLsb' 5 27).toNat = w.toNat / 32 := by
    simp only [BitVec.extractLsb'_toNat, Nat.shiftRight_eq_div_pow]
    omega
  rw [← BitVec.toNat_ne_iff_ne, hrsv, BitVec.ofNat_eq_ofNat, BitVec.toNat_zero]
  omega

/-- The opcode field is the word's number modulo 16 (R90). -/
theorem opcode_toNat (w : Word) : (w.extractLsb' 0 4).toNat = w.toNat % 16 := by
  simp [BitVec.extractLsb'_toNat]

/-- R97: the opcodes 0x6 to 0xF are not assigned. -/
theorem commandOf_of_reserved {op : BitVec 4} (h : 6 ≤ op.toNat) : commandOf op = none := by
  unfold commandOf
  split
  case h_7 => rfl
  all_goals omega

/-- R98, R97 and R100, in the order of `decode_cmd` (R103). -/
theorem decodeCmd_of_reserved {w : Word}
    (h : w.extractLsb' 5 27 ≠ 0 ∨ 6 ≤ (w.extractLsb' 0 4).toNat ∨ w = 0x00000010) :
    decodeCmd w = .error .illegalCmd := by
  rcases h with hrsv | hop | rfl
  · exact if_pos hrsv
  · have hnone : commandOf (fieldsOf w).op = none := commandOf_of_reserved hop
    simp [decodeCmd, hnone]
  · rfl

/-- R99 with IPV6_MODE = Refuse (log 8). -/
theorem decodeCmd_of_sixteenByteAddress {w : Word} (hlo : 0x11 ≤ w.toNat) (hhi : w.toNat ≤ 0x15) :
    decodeCmd w = .error .addrWidth := by
  have hw : w = 0x11 ∨ w = 0x12 ∨ w = 0x13 ∨ w = 0x14 ∨ w = 0x15 := by bv_omega
  rcases hw with rfl | rfl | rfl | rfl | rfl <;> rfl

/-! ### The partition of all words -/

/-- Settles O2: the legal and the ADDR_WIDTH words are eleven, each decoded by evaluation; a word that is none of them
has a reserved bit, has a reserved opcode, or is 0x10. -/
theorem everyWordIsCommandAddrWidthOrIllegal : Obligations.EveryWordIsCommandAddrWidthOrIllegal := by
  intro w
  split_ifs with h0 h1 h2 h3 h4 h5 haw
  · subst h0; rfl
  · subst h1; rfl
  · subst h2; rfl
  · subst h3; rfl
  · subst h4; rfl
  · subst h5; rfl
  · exact decodeCmd_of_sixteenByteAddress haw.1 haw.2
  · refine decodeCmd_of_reserved ?_
    rw [rsv_ne_zero_iff, opcode_toNat]
    bv_omega

/-! ### The completion of a reserved word -/

/-- A word that is no command completes with its error (R203). -/
theorem step_of_decode_error {s : State} {w : Word} {e : CmdError} (h : s.EngineNext w)
    (hd : decodeCmd w = .error e) : step s = .next (errorCompletion e (advance s)) := by
  rw [step_of_engineNext h, hd]

/-- Settles O24: a reserved word decodes to ILLEGAL_CMD, which the engine's step then completes with. -/
theorem reservedWordsCompleteWithIllegalCmd : Obligations.ReservedWordsCompleteWithIllegalCmd :=
  ⟨rfl, fun _ _ hnext hreserved => step_of_decode_error hnext (decodeCmd_of_reserved hreserved)⟩

end Sys2Proof.Machine
end

section
/-! Proofs about the folds (40_checksum.md section 1): the residue `fold` gives (R121), and the carry `fold1` drops
(R122). -/

namespace Sys2Proof.Machine

/-! ### The fold -/

theorem fold_toNat_of_le {x : Nat} (h : x ≤ 0xFFFF) : (fold x).toNat = x := by
  rw [fold_toNat (by omega), foldLoop_of_le 3 h]

theorem fold_toNat_mod {x : Nat} (h : x < 2 ^ 32) : (fold x).toNat % 0xFFFF = x % 0xFFFF := by
  rw [fold_toNat h, foldLoop_mod]

/-- A pass of R121's loop changes nothing of its result. -/
theorem fold_foldPass {x : Nat} (hlo : 0xFFFF < x) (h : x < 2 ^ 32) : fold x = fold (foldPass x) := by
  have hpass : foldPass x < 2 ^ 32 := (foldPass_lt hlo).trans h
  apply BitVec.eq_of_toNat_eq
  calc (fold x).toNat = foldLoop 3 x := fold_toNat h
    _ = foldLoop 2 (foldPass x) := if_pos hlo
    _ = foldLoop 3 (foldPass x) := (foldLoop_three hpass).symm
    _ = (fold (foldPass x)).toNat := (fold_toNat hpass).symm

theorem fold_eq_zero_iff {x : Nat} (h : x < 2 ^ 32) : fold x = 0 ↔ x = 0 := by
  refine ⟨fun h0 => ?_, fun h0 => h0 ▸ rfl⟩
  have hloop : foldLoop 3 x = 0 := by rw [← fold_toNat h, h0]; rfl
  by_contra hx
  exact (foldLoop_pos 3 (Nat.pos_of_ne_zero hx)).ne' hloop

/-- Each residue modulo 0xFFFF has one representative from 1 to 0xFFFF. -/
theorem half_eq_of_mod_eq {y z : Half} (hy : y ≠ 0) (hz : z ≠ 0) (h : y.toNat % 0xFFFF = z.toNat % 0xFFFF) :
    y = z := by
  bv_omega

/-- Settles O32: one pass keeps the residue and three reach 16 bits, so `fold` is the residue's one representative. -/
theorem foldIsTheResidueModulo0xFFFF : Obligations.FoldIsTheResidueModulo0xFFFF := by
  refine ⟨fun x hx => ⟨fun hlo => ⟨foldPass_lt hlo, fold_foldPass hlo hx⟩, fold_toNat_of_le, fold_eq_zero_iff hx,
    fold_toNat_mod hx, fun y hx0 hy0 hmod => ?_⟩, by decide⟩
  exact half_eq_of_mod_eq hy0 (mt (fold_eq_zero_iff hx).mp hx0) (hmod.trans (fold_toNat_mod hx).symm)

/-! ### The single fold -/

/-- Where the single pass carries, dropping the carry moves the residue by one; where it does not, the pass is the whole
fold (R122). -/
theorem fold1_ne_fold_iff {x : Nat} (h : x < 2 ^ 32) : fold1 x ≠ fold x ↔ 0xFFFF < foldPass x := by
  have hone := fold1_toNat x
  by_cases hcarry : 0xFFFF < foldPass x
  · refine iff_of_true (fun heq => ?_) hcarry
    have hbound : foldPass x < 2 * 65536 := by unfold foldPass; omega
    have hres : (fold1 x).toNat % 65535 = foldPass x % 65535 := by rw [heq, fold_toNat_mod h, foldPass_mod]
    omega
  · refine iff_of_false (not_not.mpr ?_) hcarry
    have hfold : fold x = fold (foldPass x) := by
      by_cases hx : 0xFFFF < x
      · exact fold_foldPass hx h
      · rw [show foldPass x = x by unfold foldPass; omega]
    apply BitVec.eq_of_toNat_eq
    rw [hone, hfold, fold_toNat_of_le (by omega)]
    omega

/-- Settles O33: the formula is `fold1_toNat`, the difference `fold1_ne_fold_iff`. -/
theorem singleFoldDropsItsCarry : Obligations.SingleFoldDropsItsCarry :=
  ⟨fun x hx => ⟨fold1_toNat x, (fold1_ne_fold_iff hx).mp⟩, by decide⟩

end Sys2Proof.Machine
end

section
/-! Proofs about the pseudo-header sum (R126): its six addends, and which of its sums lose a carry (R123). -/

namespace Sys2Proof.Machine

/-- PROTO alone makes the sum positive; it and five 16-bit halves bound it (R123). -/
theorem pseudoAddends_bounds (d : List Byte) (s t : Word) :
    17 ≤ pseudoAddends d s t ∧ pseudoAddends d s t ≤ 0x5000C := by
  have hlen := (be16 d 4).isLt
  have hsHi := (hiHalf s).isLt
  have hsLo := (loHalf s).isLt
  have htHi := (hiHalf t).isLt
  have htLo := (loHalf t).isLt
  simp only [pseudoAddends, Config.proto]
  omega

/-- The pseudo-header sum in numbers: the single fold of its addends, truncated to 16 bits (R122, R126). -/
theorem pseudoHeaderSum_toNat (d : List Byte) (s t : Word) :
    (pseudoHeaderSum d s t).toNat = (pseudoAddends d s t % 65536 + pseudoAddends d s t / 65536) % 65536 :=
  fold1_toNat _

/-- R123: the carry is dropped exactly where the single pass has one. -/
theorem pseudoHeaderSum_ne_fold_iff (d : List Byte) (s t : Word) :
    pseudoHeaderSum d s t ≠ fold (pseudoAddends d s t) ↔
      0x10000 - pseudoAddends d s t / 65536 ≤ pseudoAddends d s t % 65536 := by
  obtain ⟨-, hmax⟩ := pseudoAddends_bounds d s t
  refine (fold1_ne_fold_iff (by omega)).trans ?_
  unfold foldPass
  omega

/-- Settles O34: the bounds of the six addends, and `fold1_ne_fold_iff` at their sum; below 0x10000 the high half is 0, so
no carry is possible. -/
theorem droppedCarryHappensExactlyThere : Obligations.DroppedCarryHappensExactlyThere := by
  refine ⟨fun d s t => ?_, fun d hlen => ?_⟩
  · obtain ⟨-, hmax⟩ := pseudoAddends_bounds d s t
    have hiff := pseudoHeaderSum_ne_fold_iff d s t
    refine ⟨by omega, by omega, hiff, fun hsmall => ?_⟩
    by_contra hne
    have := hiff.mp hne
    omega
  · rw [pseudoHeaderSum, pseudoAddends, hlen]
    decide

/-- Settles O37: the six addends in plain numbers (`pseudoAddends_eq`), folded once. -/
theorem pseudoHeaderSumAddsTheSixWords : Obligations.PseudoHeaderSumAddsTheSixWords := by
  refine ⟨fun d s t x _ hx => ?_, by decide⟩
  rw [hx, ← pseudoAddends_eq, pseudoHeaderSum_toNat]

/-- A pseudo-header sum of zero has lost a carry: its addends are not zero (R128). -/
theorem pseudoAddends_of_pseudoHeaderSum_eq_zero {d : List Byte} {s t : Word} (h : pseudoHeaderSum d s t = 0) :
    0x10000 ≤ pseudoAddends d s t := by
  obtain ⟨hmin, -⟩ := pseudoAddends_bounds d s t
  have hzero : (pseudoAddends d s t % 65536 + pseudoAddends d s t / 65536) % 65536 = 0 := by
    rw [← pseudoHeaderSum_toNat, h]; rfl
  omega

theorem pseudoHeaderSum_comm (d : List Byte) (s t : Word) : pseudoHeaderSum d s t = pseudoHeaderSum d t s := by
  have hadd : pseudoAddends d s t = pseudoAddends d t s := by simp only [pseudoAddends]; omega
  rw [pseudoHeaderSum, pseudoHeaderSum, hadd]

/-- Of the datagram the pseudo-header sum reads the Length field alone (R126). -/
theorem pseudoHeaderSum_congr {d d' : List Byte} (h : be16 d' 4 = be16 d 4) (s t : Word) :
    pseudoHeaderSum d' s t = pseudoHeaderSum d s t := by
  simp only [pseudoHeaderSum, pseudoAddends, h]

end Sys2Proof.Machine
end

section
/-! Proofs about the two checksums (40_checksum.md section 2): the residue of receiveChecksum (R128), what it does not
depend on (R129), and the two laws of sendChecksum (R154, R155). -/

namespace Sys2Proof.Machine

/-! ### The words of a datagram -/

theorem excise_length_le (d : List Byte) : (excise d).length ≤ d.length := by
  simp only [excise, List.length_append, List.length_take, List.length_drop]; omega

theorem padEven_length_le (e : List Byte) : (padEven e).length ≤ e.length + 1 := by
  unfold padEven
  split <;> simp

/-- The words of a datagram of at most 65535 bytes sum to a u32, also when it is shorter than a header. -/
theorem sumWords_words_lt {d : List Byte} (h : d.length ≤ 65535) : sumWords (words d) < 2 ^ 32 := by
  have hexcise := excise_length_le d
  have hpad := padEven_length_le (excise d)
  have hwords : (words d).length = (padEven (excise d)).length / 2 := pairWords_length _
  have hsum := sumWords_le (words d)
  omega

theorem eq_zero_of_sumWords_eq_zero {l : List Half} (h : sumWords l = 0) : ∀ w ∈ l, w = 0 := fun _ hw =>
  BitVec.eq_of_toNat_eq (List.sum_eq_zero_iff.mp h _ (List.mem_map_of_mem hw))

theorem excise_congr {d d' : List Byte} (h : ∀ k, k ≠ 6 → k ≠ 7 → d'[k]? = d[k]?) : excise d' = excise d := by
  have htake : d'.take 6 = d.take 6 := by
    apply List.ext_getElem?
    intro k
    by_cases hk : k < 6
    · rw [List.getElem?_take_of_lt hk, List.getElem?_take_of_lt hk, h k (by omega) (by omega)]
    · rw [List.getElem?_take_eq_none (by omega), List.getElem?_take_eq_none (by omega)]
  have hdrop : d'.drop 8 = d.drop 8 := by
    apply List.ext_getElem?
    intro k
    rw [List.getElem?_drop, List.getElem?_drop, h (8 + k) (by omega) (by omega)]
  rw [excise, excise, htake, hdrop]

/-! ### receiveChecksum -/

/-- Folding a sum of words, adding a half and folding again keeps the residue: R127's two folds. -/
theorem fold_fold_add_mod {x : Nat} (h : x < 2 ^ 32) (p : Half) :
    (fold ((fold x).toNat + p.toNat)).toNat % 0xFFFF = (x + p.toNat) % 0xFFFF := by
  have hsum : (fold x).toNat + p.toNat < 2 ^ 32 := by
    have ha := (fold x).isLt
    have hp := p.isLt
    omega
  rw [fold_toNat_mod hsum, Nat.add_mod, fold_toNat_mod h, ← Nat.add_mod]

/-- R127 with its substitution of 0xFFFF for 0x0000. -/
theorem receiveChecksum_eq (d : List Byte) (s t : Word) :
    receiveChecksum d s t =
      if fold ((fold (sumWords (words d))).toNat + (pseudoHeaderSum d s t).toNat) = 0 then 0xFFFF
      else fold ((fold (sumWords (words d))).toNat + (pseudoHeaderSum d s t).toNat) := rfl

theorem receiveChecksum_ne_zero (d : List Byte) (s t : Word) : receiveChecksum d s t ≠ 0 := by
  rw [receiveChecksum_eq]
  split
  · decide
  · assumption

/-- The substitution keeps the residue, which is that of the words and the pseudo-header sum (R128). -/
theorem receiveChecksum_toNat_mod {d : List Byte} (h : d.length ≤ 65535) (s t : Word) :
    (receiveChecksum d s t).toNat % 0xFFFF = (sumWords (words d) + (pseudoHeaderSum d s t).toNat) % 0xFFFF := by
  rw [← fold_fold_add_mod (sumWords_words_lt h), receiveChecksum_eq]
  split
  case isTrue hzero => rw [hzero]; rfl
  case isFalse => rfl

/-- R128: where the substitution fires, both sums fold to zero, so every word is zero and the pseudo-header lost a carry. -/
theorem substitution_fires {d : List Byte} {s t : Word} (h : d.length ≤ 65535)
    (hfold : fold ((fold (sumWords (words d))).toNat + (pseudoHeaderSum d s t).toNat) = 0) :
    (∀ w ∈ words d, w = 0) ∧ pseudoHeaderSum d s t = 0 ∧ 0x10000 ≤ pseudoAddends d s t := by
  have ha := (fold (sumWords (words d))).isLt
  have hp := (pseudoHeaderSum d s t).isLt
  have hsum := (fold_eq_zero_iff (by omega)).mp hfold
  have hwords : fold (sumWords (words d)) = 0 := BitVec.eq_of_toNat_eq (Nat.eq_zero_of_add_eq_zero_right hsum)
  have hpseudo : pseudoHeaderSum d s t = 0 := BitVec.eq_of_toNat_eq (Nat.eq_zero_of_add_eq_zero_left hsum)
  exact ⟨eq_zero_of_sumWords_eq_zero ((fold_eq_zero_iff (sumWords_words_lt h)).mp hwords), hpseudo,
    pseudoAddends_of_pseudoHeaderSum_eq_zero hpseudo⟩

/-- Settles O38: receiveChecksum is not 0 and has the residue of the two sums, which determines it. -/
theorem receiveChecksumIsNeverZero : Obligations.ReceiveChecksumIsNeverZero := by
  refine ⟨fun d s t _ hlen => ?_, receiveChecksum_ne_zero, fun d s t hlen => substitution_fires hlen, by decide, ?_⟩
  · have hne := receiveChecksum_ne_zero d s t
    have hmod := receiveChecksum_toNat_mod hlen s t
    exact ⟨by bv_omega, by bv_omega, hmod, fun y hy hres => half_eq_of_mod_eq hne hy (hmod.trans hres.symm)⟩
  · rintro d s t rfl rfl rfl
    decide

/-- Of bytes 6 and 7 neither the words nor the pseudo-header sum reads any (R129). -/
theorem receiveChecksum_of_own_field {d d' : List Byte} (h : ∀ k, k ≠ 6 → k ≠ 7 → d'[k]? = d[k]?) (s t : Word) :
    receiveChecksum d' s t = receiveChecksum d s t := by
  have hwords : words d' = words d := by rw [words, words, excise_congr h]
  have hlen : be16 d' 4 = be16 d 4 := by
    simp only [be16, byteAt, List.getD_eq_getElem?_getD]
    rw [h 4 (by omega) (by omega), h 5 (by omega) (by omega)]
  exact receiveChecksum_congr hwords (pseudoHeaderSum_congr hlen s t)

/-- Settles O39: the four halves are only added, and bytes 6 and 7 are excised. -/
theorem receiveChecksumIgnoresOrderAndOwnField : Obligations.ReceiveChecksumIgnoresOrderAndOwnField :=
  ⟨fun d s t => receiveChecksum_congr rfl (pseudoHeaderSum_comm d s t),
    fun _ _ s t _ h => receiveChecksum_of_own_field h s t⟩

/-! ### sendChecksum -/

theorem sendChecksum_toNat (d : List Byte) (s t : Word) :
    (sendChecksum d s t).toNat = 0xFFFF - (receiveChecksum d s t).toNat := BitVec.toNat_not

/-- Settles O40: `sendChecksum_toNat`, for datagrams of every length. -/
theorem sendChecksumIsTheComplement : Obligations.SendChecksumIsTheComplement :=
  fun d s t _ => sendChecksum_toNat d s t

/-- Settles O41: the receiver's checksum ignores the field, so it meets its own complement there; their sum is 0xFFFF
itself, with no carry to lose or to add back. -/
theorem datagramVerifiesItself : Obligations.DatagramVerifiesItself := by
  intro d d' s t _ _ hother hfield
  have hsum : (receiveChecksum d' s t).toNat + (be16 d' 6).toNat = 0xFFFF := by
    have hlt := (receiveChecksum d s t).isLt
    rw [receiveChecksum_of_own_field hother, hfield, sendChecksum_toNat]
    omega
  rw [hsum]
  decide

end Sys2Proof.Machine
end

section
/-! Proofs about the checksum commands (40_checksum.md sections 4 to 6): each completes with its function of the datagram
in RESULT (R142, R145, R150). -/

namespace Sys2Proof.Machine

/-- The completion the three commands share, for a written datagram of at least 8 bytes (R141, R146, R151). -/
theorem checksumCommand_of_holds (f : List Byte → Word → Word → Half) {s : State} {d : List Byte}
    (hlen : d.length = s.len.toNat) (hmin : 8 ≤ d.length) (hd : s.Holds 0 d) :
    checksumCommand f s = .next (succeed (writeOutputs (pair 0 (f d s.srcIp s.dstIp)) 0 0 0 s)) := by
  have hread : memRead 0 s.len.toNat s = some d := hlen ▸ memRead_of_holds hd
  have hlong : ¬ s.len.toNat < Config.hdrLen := Nat.not_lt.mpr (hlen ▸ hmin)
  rw [checksumCommand, if_neg hlong, hread]

/-- Settles O18: `checksumCommand_of_holds` for receiveChecksum. -/
theorem csumRecvGivesReceiveChecksum : Obligations.CsumRecvGivesReceiveChecksum :=
  ⟨rfl, fun _ _ hlen hmin hd => checksumCommand_of_holds receiveChecksum hlen hmin hd⟩

/-- Settles O19: `checksumCommand_of_holds` for sendChecksum. -/
theorem csumSendGivesSendChecksum : Obligations.CsumSendGivesSendChecksum :=
  ⟨rfl, fun _ _ hlen hmin hd => checksumCommand_of_holds sendChecksum hlen hmin hd⟩

/-- Settles O20: `checksumCommand_of_holds` for pseudoHeaderSum. -/
theorem pseudoSumGivesPseudoHeaderSum : Obligations.PseudoSumGivesPseudoHeaderSum :=
  ⟨rfl, fun _ _ hlen hmin hd => checksumCommand_of_holds pseudoHeaderSum hlen hmin hd⟩

end Sys2Proof.Machine
end

section
/-! Proofs about the header codec (41_codec.md sections 2 and 3): the fields of an encoded datagram (R160, R161), the case
split of decode (R178), and the round trip (R191). -/

namespace Sys2Proof.Machine

/-! ### The datagram encode builds -/

@[simp] theorem be16_encodeDatagram_sport (payload : List Byte) (sp dp : Half) (s t : Word) :
    be16 (encodeDatagram payload sp dp s t) 0 = sp := bytes_join sp

@[simp] theorem be16_encodeDatagram_dport (payload : List Byte) (sp dp : Half) (s t : Word) :
    be16 (encodeDatagram payload sp dp s t) 2 = dp := bytes_join dp

@[simp] theorem be16_encodeDatagram_length (payload : List Byte) (sp dp : Half) (s t : Word) :
    be16 (encodeDatagram payload sp dp s t) 4 = BitVec.ofNat 16 (8 + payload.length) := bytes_join _

@[simp] theorem encodeDatagram_drop (payload : List Byte) (sp dp : Half) (s t : Word) :
    (encodeDatagram payload sp dp s t).drop 8 = payload := rfl

theorem sendChecksum_of_own_field {d d' : List Byte} (h : ∀ k, k ≠ 6 → k ≠ 7 → d'[k]? = d[k]?) (s t : Word) :
    sendChecksum d' s t = sendChecksum d s t :=
  congrArg (~~~ ·) (receiveChecksum_of_own_field h s t)

/-- R162: encode computes the checksum before it stands in the datagram, which makes no difference to it. -/
theorem be16_encodeDatagram_checksum (payload : List Byte) (sp dp : Half) (s t : Word) :
    be16 (encodeDatagram payload sp dp s t) 6 = sendChecksum (encodeDatagram payload sp dp s t) s t := by
  simp only [encodeDatagram]
  rw [sendChecksum_of_own_field fun k h6 h7 => putChecksum_other _ _ h6 h7]
  exact be16_putChecksum _ (by simp [headerBytes, halfBytes])

theorem sendChecksum_eq_zero_iff (d : List Byte) (s t : Word) :
    sendChecksum d s t = 0x0000 ↔ receiveChecksum d s t = 0xFFFF := by
  rw [sendChecksum]
  bv_omega

/-- Settles O42: the header fields of `encodeDatagram`, whose Length does not wrap within R161's bound. -/
theorem encodedDatagramLayout : Obligations.EncodedDatagramLayout := by
  rintro payload sp dp s t d hlen rfl
  have hfield : (be16 (encodeDatagram payload sp dp s t) 4).toNat = 8 + payload.length := by
    rw [be16_encodeDatagram_length, BitVec.toNat_ofNat, Nat.mod_eq_of_lt (by omega)]
  have hck := be16_encodeDatagram_checksum payload sp dp s t
  exact ⟨encodeDatagram_length .., be16_encodeDatagram_sport .., be16_encodeDatagram_dport .., hfield, hck,
    encodeDatagram_drop .., hck ▸ sendChecksum_eq_zero_iff _ s t⟩

/-! ### What decode answers -/

/-- decode of a datagram that has a header: the port, then the full check, then the fallback, which this hardware always
tries (R173 to R176, D29). -/
theorem decodeDatagram_of_header {raw : List Byte} (hlen : 8 ≤ raw.length) (sender : Word) (lport : Half)
    (localIp : Word) :
    decodeDatagram raw sender lport localIp =
      if be16 raw 2 ≠ lport then .rejPort (parseHeader raw)
      else if receiveChecksum raw sender localIp + be16 raw 6 = 0xFFFF then
        .accFull (parseHeader raw) (receiveChecksum raw sender localIp) (pseudoHeaderSum raw sender localIp) (raw.drop 8)
      else if pseudoHeaderSum raw sender localIp = be16 raw 6 then
        .accPseudo (parseHeader raw) (receiveChecksum raw sender localIp) (pseudoHeaderSum raw sender localIp)
          (raw.drop 8)
      else .rejCsum (parseHeader raw) (receiveChecksum raw sender localIp) (pseudoHeaderSum raw sender localIp) := by
  have hheader : ¬ raw.length < Config.hdrLen := Nat.not_lt.mpr hlen
  have hfallback : ∀ p c : Half, (!Config.strictChecksum && p == c) = true ↔ p = c := fun p c => beq_iff_eq
  simp only [decodeDatagram, if_neg hheader, hfallback]
  rfl

/-- The full check is made before the fallback, so a datagram that passes it is ACC_FULL (R174). -/
theorem decodeDatagram_of_fullCheck {raw : List Byte} {sender localIp : Word} {lport : Half} (hlen : 8 ≤ raw.length)
    (hport : be16 raw 2 = lport) (hfull : receiveChecksum raw sender localIp + be16 raw 6 = 0xFFFF) :
    decodeDatagram raw sender lport localIp =
      .accFull (parseHeader raw) (receiveChecksum raw sender localIp) (pseudoHeaderSum raw sender localIp)
        (raw.drop 8) := by
  rw [decodeDatagram_of_header hlen, if_neg (not_not.mpr hport), if_pos hfull]

theorem accepting_decodeDatagram_iff {raw : List Byte} (hlen : 8 ≤ raw.length) (sender : Word) (lport : Half)
    (localIp : Word) :
    accepting (verdictOf (decodeDatagram raw sender lport localIp)) = true ↔
      be16 raw 2 = lport ∧ (receiveChecksum raw sender localIp + be16 raw 6 = 0xFFFF ∨
        pseudoHeaderSum raw sender localIp = be16 raw 6) := by
  rw [decodeDatagram_of_header hlen]
  split_ifs with hport hfull hfallback
  · exact iff_of_false Bool.false_ne_true fun h => hport h.1
  · exact iff_of_true rfl ⟨not_not.mp hport, .inl hfull⟩
  · exact iff_of_true rfl ⟨not_not.mp hport, .inr hfallback⟩
  · exact iff_of_false Bool.false_ne_true fun h => h.2.elim hfull hfallback

/-! ### The round trip -/

/-- R155 at the receiver: the sum of an encoded datagram's two checksums is all ones, with no carry. -/
theorem encodeDatagram_fullCheck (payload : List Byte) (sp dp : Half) (s t : Word) :
    receiveChecksum (encodeDatagram payload sp dp s t) s t + be16 (encodeDatagram payload sp dp s t) 6 = 0xFFFF := by
  rw [be16_encodeDatagram_checksum]
  exact BitVec.add_not_self _

theorem receiveChecksum_comm (d : List Byte) (s t : Word) : receiveChecksum d s t = receiveChecksum d t s :=
  receiveChecksum_congr rfl (pseudoHeaderSum_comm d s t)

/-- Settles O43: an encoded datagram passes the full check, and with the addresses swapped it has the same
receiveChecksum. -/
theorem decodingAnEncodedDatagramRecoversIt : Obligations.DecodingAnEncodedDatagramRecoversIt := by
  rintro payload sp dp s t d - rfl
  have hlen : 8 ≤ (encodeDatagram payload sp dp s t).length := by rw [encodeDatagram_length]; omega
  have hport := be16_encodeDatagram_dport payload sp dp s t
  have hfull := encodeDatagram_fullCheck payload sp dp s t
  constructor
  · exact ⟨_, _, _, decodeDatagram_of_fullCheck hlen hport hfull, be16_encodeDatagram_sport .., hport⟩
  · rw [receiveChecksum_comm] at hfull
    exact (accepting_decodeDatagram_iff hlen t dp s).mpr ⟨hport, .inl hfull⟩

end Sys2Proof.Machine
end

section
/-! Proofs about ENCODE and DECODE (41_codec.md sections 4 to 6): the datagram built in place (R181), the report of a
verdict (R186, R187), and what an accepting one says (R192). -/

namespace Sys2Proof.Machine

/-! ### ENCODE -/

/-- The completion of ENCODE on a written payload within R161's bound (R181). -/
theorem execEncode_of_holds {s : State} {payload : List Byte} (hlen : payload.length = s.len.toNat)
    (hmax : payload.length ≤ 65527) (hp : s.Holds 8 payload) :
    execEncode s = .next (succeed (writeOutputs
      (pair 0 (be16 (encodeDatagram payload s.sport s.dport s.srcIp s.dstIp) 6)) 0 0
      (BitVec.ofNat 16 (8 + payload.length))
      (memWrite 0 ((encodeDatagram payload s.sport s.dport s.srcIp s.dstIp).take 8) s))) := by
  have hread : memRead Config.hdrLen s.len.toNat s = some payload := hlen ▸ memRead_of_holds hp
  have hfits : ¬ s.len.toNat > Config.maxPayload := Nat.not_lt.mpr (hlen ▸ hmax)
  rw [execEncode, if_neg hfits, hread, hlen]
  rfl

/-- A list whose end the buffer holds already is held whole once its first `n` bytes are written before that end. -/
theorem memWrite_take_holds {s : State} {off n : Nat} {d : List Byte} (hn : n ≤ d.length)
    (hend : s.Holds (off + n) (d.drop n)) : (memWrite off (d.take n) s).Holds off d := by
  have htake : (d.take n).length = n := List.length_take_of_le hn
  intro k hk
  rw [memWrite_mem]
  by_cases hkn : k < n
  · rw [Memory.read_writeBytes_inside _ _ _ (htake.symm ▸ hkn), List.getElem?_take_of_lt hkn]
  · obtain ⟨j, rfl⟩ := Nat.exists_eq_add_of_le (Nat.not_lt.mp hkn)
    have hj : j < (d.drop n).length := by rw [List.length_drop]; omega
    calc (s.mem.writeBytes off (d.take n)).read (off + (n + j))
        = s.mem.read (off + n + j) := by
          rw [Memory.read_writeBytes_outside _ _ _ (by omega), Nat.add_assoc]
      _ = (d.drop n)[j]? := hend j hj
      _ = d[n + j]? := List.getElem?_drop

/-- Settles O21: the header goes in front of the payload, which stands where the datagram has it. -/
theorem encodeBuildsTheDatagramInPlace : Obligations.EncodeBuildsTheDatagramInPlace := by
  refine ⟨rfl, fun s payload hlen hmax hp => ⟨_, execEncode_of_holds hlen hmax hp, ?_, fun a ha => ?_, rfl⟩⟩
  · have hheader : 8 ≤ (encodeDatagram payload s.sport s.dport s.srcIp s.dstIp).length := by
      rw [encodeDatagram_length]; omega
    exact memWrite_take_holds hheader hp
  · exact Memory.read_writeBytes_outside _ _ _ (.inr (by simpa using .inl ha))

/-! ### DECODE -/

/-- The completion of DECODE on a written datagram that has a header (R186). -/
theorem execDecode_of_holds {s : State} {raw : List Byte} (hlen : raw.length = s.len.toNat) (hmin : 8 ≤ raw.length)
    (hd : s.Holds 0 raw) :
    execDecode s = .next (reportDecode raw.length (decodeDatagram raw s.srcIp s.dport s.dstIp) s) := by
  have hread : memRead 0 s.len.toNat s = some raw := hlen ▸ memRead_of_holds hd
  have hlong : ¬ s.len.toNat < Config.hdrLen := Nat.not_lt.mpr (hlen ▸ hmin)
  rw [execDecode, if_neg hlong, hread, hlen]

/-- DECODE of fewer bytes than a header has reads none of them (R171, R186). -/
theorem execDecode_of_short {s : State} (h : s.len.toNat < 8) :
    execDecode s = .next (reportDecode s.len.toNat .rejShort s) := if_pos h

/-- Settles O22: decode's four branches with a header are those of the stated verdict (`decodeDatagram_of_header`), and
of each the report is R186's. -/
theorem decodeReportsTheVerdict : Obligations.DecodeReportsTheVerdict := by
  refine ⟨rfl, fun s hlen => execDecode_of_short hlen, ?_⟩
  intro s raw v hlen hmin hd hv
  have hexec : exec .decode s = .next (reportDecode raw.length
      (decodeDatagram raw s.srcIp (s.ports.extractLsb' 0 16) s.dstIp) s) := execDecode_of_holds hlen hmin hd
  rw [decodeDatagram_of_header hmin] at hexec
  split_ifs at hv hexec
  all_goals
    subst hv
    exact hexec

@[simp] theorem reportDecode_accept (n : Nat) (r : DecodeResult) (s : State) :
    (reportDecode n r s).status.accept = accepting (verdictOf r) := by
  obtain ⟨a, b, c, o, h⟩ := reportDecode_eq n r s
  simp [h]

/-- Settles O44: of DECODE's completions (`execDecode_cases`) only the report of an accepting verdict sets ACCEPT. -/
theorem onlyMatchingVerifiedDatagramsAreAccepted : Obligations.OnlyMatchingVerifiedDatagramsAreAccepted := by
  intro s t hexec hbefore hafter
  rcases execDecode_cases s with ⟨-, h⟩ | ⟨-, -, h⟩ | ⟨hmin, raw, hlen, hd, h⟩ <;> cases h.symm.trans hexec
  · cases hafter
  · cases hbefore.symm.trans hafter
  · rw [reportDecode_accept] at hafter
    exact ⟨raw, hlen, hlen ▸ hmin, hd, (accepting_decodeDatagram_iff (hlen ▸ hmin) _ _ _).mp hafter⟩

end Sys2Proof.Machine
end

section
/-! Proofs about NOP and the host's writes of registers (42_control.md): what NOP leaves unchanged (R205), issue (R201),
the acknowledgement (R207), and the writes of CTRL, of the operands and of the output registers (R208, R209). -/

namespace Sys2Proof.Machine

/-- Settles O17: the word decodes to NOP, whose completion is `succeed` of the state as it stands. -/
theorem nopOnlyCompletes : Obligations.NopOnlyCompletes := ⟨rfl, fun _ => rfl⟩

/-! ### Writes that store, are a hazard, or are ignored -/

theorem hostAccess_write_hazard {r : Reg} {s : State} (hbusy : s.status.busy = true) (hr : isOperand r = true)
    (v : Word) : hostAccess (.write 32 (Reg.offset r) v) s = modelFault .hazardWriteBusy s := by
  rw [hostAccess_write_register, writeRegister, hbusy, hr]; rfl

theorem hostAccess_write_idle {s : State} (hbusy : s.status.busy = false) (r : Reg) (v : Word) :
    hostAccess (.write 32 (Reg.offset r) v) s = storeReg r v s :=
  (hostAccess_write_register r v s).trans (writeRegister_of_allowed (by simp [hbusy]) v)

/-- R209: also in flight, since R270 does not name the output registers. -/
theorem hostAccess_write_output {r : Reg} (hr : isOutput r = true) (v : Word) (s : State) :
    hostAccess (.write 32 (Reg.offset r) v) s = s := by
  cases r with
  | result | rxPorts | rxFields | outLen =>
    exact (hostAccess_write_register _ v s).trans (writeRegister_of_allowed (by simp [isOperand]) v)
  | ctrl | cmd | status | len | srcIp | dstIp | ports => cases hr

/-- Settles O47: CMD is an operand of R270, and its store is `issue`, which does not look at the word. -/
theorem cmdWriteIssuesTheCommand : Obligations.CmdWriteIssuesTheCommand := fun _ w =>
  ⟨fun hidle => hostAccess_write_cmd hidle w, fun hbusy => hostAccess_write_hazard (r := .cmd) hbusy rfl w⟩

/-! ### The acknowledgement -/

theorem and_not_eq_ite (a b : Bool) : (a && !b) = if b then false else a := by cases b <;> simp

/-- R207 as it is written, bit by bit. -/
theorem statusAcked_eq (v : Word) (t : Status) :
    statusAcked v t = { t with
      done := if v.getLsbD 1 then false else t.done
      err := if v.getLsbD 2 then false else t.err
      errcode := if v.getLsbD 2 then none else t.errcode } := by
  rw [statusAcked, and_not_eq_ite, and_not_eq_ite]

/-- While a command is in flight there is nothing to acknowledge (R38). -/
theorem statusAcked_of_busy {t : Status} (hlegal : t.Legal) (hbusy : t.busy = true) (v : Word) :
    statusAcked v t = t := by
  obtain ⟨busy, done, err, accept, reason, errcode⟩ := t
  obtain ⟨rfl, rfl, -, -, rfl⟩ : done = false ∧ err = false ∧ accept = false ∧ reason = none ∧ errcode = none :=
    hlegal.1 hbusy
  simp [statusAcked]

/-- Settles O50: the write is the acknowledgement, busy or not. -/
theorem statusWriteClearsDoneAndErr : Obligations.StatusWriteClearsDoneAndErr := by
  refine ⟨fun s v => ?_, fun s v hlegal hbusy => ?_⟩
  · rw [hostAccess_write_status, acknowledge, statusAcked_eq]
  · rw [hostAccess_write_status, acknowledge, statusAcked_of_busy hlegal hbusy]

/-! ### CTRL, the operands and the output registers -/

/-- Settles O51: CTRL is no operand of R270, so its write stores in flight too. -/
theorem ctrlWriteSetsIrqEnable : Obligations.CtrlWriteSetsIrqEnable := fun s v => hostAccess_write_ctrl v s

theorem loHalf_eq_ofNat (v : Word) : loHalf v = BitVec.ofNat 16 v.toNat := rfl

theorem output_of_offset {off : Offset} (h : off ∈ [0x0001C, 0x00020, 0x00024, 0x00028]) :
    ∃ r, isOutput r = true ∧ off = Reg.offset r := by
  simp only [List.mem_cons, List.not_mem_nil, or_false] at h
  rcases h with rfl | rfl | rfl | rfl
  exacts [⟨.result, rfl, rfl⟩, ⟨.rxPorts, rfl, rfl⟩, ⟨.rxFields, rfl, rfl⟩, ⟨.outLen, rfl, rfl⟩]

/-- Settles O52: each operand's write is its store, and the other four offsets are those of the output registers. -/
theorem operandWritesStoreWhenNotBusy : Obligations.OperandWritesStoreWhenNotBusy := by
  refine ⟨fun s v hbusy => ?_, fun s off v hoff => ?_⟩
  · have hstore := hostAccess_write_idle hbusy
    exact ⟨(hstore .len v).trans (by rw [storeReg, loHalf_eq_ofNat]), hstore .srcIp v, hstore .dstIp v, hstore .ports v⟩
  · obtain ⟨r, hr, rfl⟩ := output_of_offset hoff
    exact hostAccess_write_output hr v s

end Sys2Proof.Machine
end

section
/-! Proofs about errors and model faults (60_exceptions.md): the completion with ADDR_WIDTH (R224), when LEN_RANGE is
raised (R225), the priority of the errors (R226), and UNINIT_READ (R237). -/

namespace Sys2Proof.Machine

/-! ### ADDR_WIDTH -/

/-- Settles O25: such a word decodes to ADDR_WIDTH, which the engine's step then completes with. -/
theorem sixteenByteAddressWordsCompleteWithAddrWidth : Obligations.SixteenByteAddressWordsCompleteWithAddrWidth :=
  ⟨rfl, fun _ _ hnext hlo hhi => step_of_decode_error hnext (decodeCmd_of_sixteenByteAddress hlo hhi)⟩

/-! ### LEN_RANGE -/

/-- The values of LEN outside a command's range (R225): none for NOP, nor for DECODE, which judges a short one (R187). -/
def LenOutOfRange : Instr → Nat → Prop
  | .csumRecv, n | .csumSend, n | .pseudoSum, n => n < 8
  | .encode, n => 65527 < n
  | .nop, _ | .decode, _ => False

theorem checksumCommand_of_short (f : List Byte → Word → Word → Half) {s : State} (h : s.len.toNat < 8) :
    checksumCommand f s = .next (errorCompletion .lenRange s) := if_pos h

theorem execEncode_of_long {s : State} (h : 65527 < s.len.toNat) :
    execEncode s = .next (errorCompletion .lenRange s) := if_pos h

/-- R225, the first half: LEN out of the command's range is LEN_RANGE. -/
theorem exec_of_lenOutOfRange {i : Instr} {s : State} (h : LenOutOfRange i s.len.toNat) :
    exec i s = .next (errorCompletion .lenRange s) := by
  cases i with
  | csumRecv | csumSend | pseudoSum => exact checksumCommand_of_short _ h
  | encode => exact execEncode_of_long h
  | nop | decode => exact h.elim

/-- ERR and ERRCODE stand as they are: the step that leads from `s` to `t` raised no error (R222). -/
def KeepsError (s t : State) : Prop := t.status.err = s.status.err ∧ t.status.errcode = s.status.errcode

theorem keepsError_modelFault (f : Fault) (s : State) : KeepsError s (modelFault f s) := ⟨rfl, rfl⟩

theorem keepsError_succeed {s u : State} (h : u.status = s.status) : KeepsError s (succeed u) := by
  simp [KeepsError, h]

theorem keepsError_reportDecode (n : Nat) (r : DecodeResult) (s : State) : KeepsError s (reportDecode n r s) := by
  obtain ⟨_, _, _, _, e⟩ := reportDecode_eq n r s
  simp [KeepsError, e]

theorem checksumCommand_keepsError {f : List Byte → Word → Word → Half} {s t : State} (hlen : ¬ s.len.toNat < 8)
    (h : checksumCommand f s = .next t) : KeepsError s t := by
  rcases checksumCommand_cases f s with ⟨hshort, -⟩ | ⟨-, -, e⟩ | ⟨-, _, -, -, e⟩
  · exact absurd hshort hlen
  · cases e.symm.trans h; exact keepsError_modelFault _ s
  · cases e.symm.trans h; exact keepsError_succeed rfl

theorem execEncode_keepsError {s t : State} (hlen : ¬ 65527 < s.len.toNat) (h : execEncode s = .next t) :
    KeepsError s t := by
  rcases execEncode_cases s with ⟨hlong, -⟩ | ⟨-, -, e⟩ | ⟨-, _, -, -, e⟩
  · exact absurd hlong hlen
  · cases e.symm.trans h; exact keepsError_modelFault _ s
  · cases e.symm.trans h; exact keepsError_succeed rfl

theorem execDecode_keepsError {s t : State} (h : execDecode s = .next t) : KeepsError s t := by
  rcases execDecode_cases s with ⟨-, e⟩ | ⟨-, -, e⟩ | ⟨-, _, -, -, e⟩ <;> cases e.symm.trans h
  · exact keepsError_reportDecode _ _ s
  · exact keepsError_modelFault _ s
  · exact keepsError_reportDecode _ _ s

/-- R225, the second half: with LEN in its range a command raises no error. -/
theorem exec_keepsError {i : Instr} {s t : State} (hlen : ¬ LenOutOfRange i s.len.toNat) (h : exec i s = .next t) :
    KeepsError s t := by
  cases i with
  | nop => cases h; exact keepsError_succeed rfl
  | csumRecv | csumSend | pseudoSum => exact checksumCommand_keepsError hlen h
  | encode => exact execEncode_keepsError hlen h
  | decode => exact execDecode_keepsError h

/-- Settles O26: the two cases are those of `LenOutOfRange`, which is never true of DECODE. -/
theorem lenRangeIsRaisedInTwoCases : Obligations.LenRangeIsRaisedInTwoCases := by
  refine ⟨rfl, fun s i hi hlen => ?_, fun s hlen => execEncode_of_long hlen, fun s t => execDecode_keepsError⟩
  rcases hi with rfl | rfl | rfl <;> exact exec_of_lenOutOfRange hlen

/-! ### The priority of the errors -/

/-- The words of R223: a reserved bit, a reserved opcode, or NOP with AW = 1. -/
abbrev ReservedWord (w : Word) : Prop :=
  w.extractLsb' 5 27 ≠ 0 ∨ 6 ≤ (w.extractLsb' 0 4).toNat ∨ w = 0x00000010

/-- AW is bit 4 of the word's number (R90, R92). -/
theorem addrWidthBit_iff (w : Word) : w.getLsbD 4 = true ↔ w.toNat / 16 % 2 = 1 := by
  simp [BitVec.getLsbD, Nat.testBit_eq_decide_div_mod_eq]

/-- A word that is not reserved has only AW and an assigned opcode. -/
theorem toNat_of_not_reserved {w : Word} (h : ¬ ReservedWord w) :
    w.toNat < 6 ∨ (0x11 ≤ w.toNat ∧ w.toNat ≤ 0x15) := by
  rw [ReservedWord, rsv_ne_zero_iff, opcode_toNat] at h
  bv_omega

theorem sixteenByteAddress_of_not_reserved {w : Word} (h : ¬ ReservedWord w) (haw : w.getLsbD 4 = true) :
    0x11 ≤ w.toNat ∧ w.toNat ≤ 0x15 := by
  rw [addrWidthBit_iff] at haw
  have := toNat_of_not_reserved h
  omega

/-- A word that no decoder test refuses is the word of a command (R96). -/
theorem exists_encode_of_not_reserved {w : Word} (h : ¬ ReservedWord w) (haw : ¬ w.getLsbD 4 = true) :
    ∃ i : Instr, w = encode i := by
  rw [addrWidthBit_iff] at haw
  have hrange := toNat_of_not_reserved h
  have hw : w = 0 ∨ w = 1 ∨ w = 2 ∨ w = 3 ∨ w = 4 ∨ w = 5 := by bv_omega
  rcases hw with rfl | rfl | rfl | rfl | rfl | rfl
  exacts [⟨.nop, rfl⟩, ⟨.csumRecv, rfl⟩, ⟨.csumSend, rfl⟩, ⟨.pseudoSum, rfl⟩, ⟨.encode, rfl⟩, ⟨.decode, rfl⟩]

theorem decodeCmd_encode (i : Instr) : decodeCmd (encode i) = .ok i := by cases i <;> rfl

theorem step_of_encode {s : State} {i : Instr} (h : s.EngineNext (encode i)) : step s = exec i (advance s) := by
  rw [step_of_engineNext h, decodeCmd_encode]

/-- R225 by command word. -/
theorem lenOutOfRange_iff (i : Instr) (n : Nat) : LenOutOfRange i n ↔
    ((encode i = 1 ∨ encode i = 2 ∨ encode i = 3) ∧ n < 8) ∨ (encode i = 4 ∧ 65527 < n) := by
  cases i <;> simp [LenOutOfRange, encode, encodeFields, Instr.fields, Instr.opcode]

/-- Settles O27: the decoder tests for the reserved words first and for AW second. A word that passes both is a
command's (`exists_encode_of_not_reserved`), and then LEN alone decides (`exec_of_lenOutOfRange`, `exec_keepsError`). -/
theorem firstErrorInPriorityIsRaised : Obligations.FirstErrorInPriorityIsRaised := by
  intro s w first hnext hfirst
  split_ifs at hfirst with hreserved haw hlen <;> subst hfirst
  · refine ⟨fun e he => ?_, nofun⟩
    cases he
    exact step_of_decode_error hnext (decodeCmd_of_reserved hreserved)
  · refine ⟨fun e he => ?_, nofun⟩
    cases he
    obtain ⟨hlo, hhi⟩ := sixteenByteAddress_of_not_reserved hreserved haw
    exact step_of_decode_error hnext (decodeCmd_of_sixteenByteAddress hlo hhi)
  · refine ⟨fun e he => ?_, nofun⟩
    cases he
    obtain ⟨i, rfl⟩ := exists_encode_of_not_reserved hreserved haw
    exact (step_of_encode hnext).trans (exec_of_lenOutOfRange ((lenOutOfRange_iff i _).mpr hlen))
  · refine ⟨nofun, fun _ t ht => ?_⟩
    obtain ⟨i, rfl⟩ := exists_encode_of_not_reserved hreserved haw
    rw [← lenOutOfRange_iff] at hlen
    exact exec_keepsError (s := advance s) hlen ((step_of_encode hnext).symm.trans ht)

/-! ### UNINIT_READ -/

theorem checksumCommand_of_not_written (f : List Byte → Word → Word → Half) {s : State} (hlen : 8 ≤ s.len.toNat)
    (h : ¬ s.Written 0 s.len.toNat) : checksumCommand f s = .next (modelFault .uninitRead s) := by
  have hlong : ¬ s.len.toNat < Config.hdrLen := Nat.not_lt.mpr hlen
  rw [checksumCommand, if_neg hlong, memRead_of_not_written h]

theorem execEncode_of_not_written {s : State} (hlen : s.len.toNat ≤ 65527) (h : ¬ s.Written 8 s.len.toNat) :
    execEncode s = .next (modelFault .uninitRead s) := by
  have hfits : ¬ s.len.toNat > Config.maxPayload := Nat.not_lt.mpr hlen
  have hread : memRead Config.hdrLen s.len.toNat s = none := memRead_of_not_written h
  rw [execEncode, if_neg hfits, hread]

theorem execDecode_of_not_written {s : State} (hlen : 8 ≤ s.len.toNat) (h : ¬ s.Written 0 s.len.toNat) :
    execDecode s = .next (modelFault .uninitRead s) := by
  have hlong : ¬ s.len.toNat < Config.hdrLen := Nat.not_lt.mpr hlen
  rw [execDecode, if_neg hlong, memRead_of_not_written h]

/-- R237 comes before R271: the read of an unwritten byte faults in flight too. -/
theorem readBuffer_of_not_written {width b : Nat} {s : State} (h : ¬ s.Written b (width / 8)) :
    readBuffer width b s = modelFault .uninitRead s := by
  rw [readBuffer, memRead_of_not_written h]

/-- Settles O28: each of the reads answers no bytes, and the reader's next state is then the model fault alone. -/
theorem unwrittenBytesRaiseUninitRead : Obligations.UnwrittenBytesRaiseUninitRead := by
  refine ⟨fun s i hi hlen h => ?_, fun s hlen h => execEncode_of_not_written hlen h, fun s width off hshape h => ?_⟩
  · rcases hi with rfl | rfl | rfl | rfl
    · exact checksumCommand_of_not_written receiveChecksum hlen h
    · exact checksumCommand_of_not_written sendChecksum hlen h
    · exact checksumCommand_of_not_written pseudoHeaderSum hlen h
    · exact execDecode_of_not_written hlen h
  · exact (hostAccess_read_buffer hshape s).trans (readBuffer_of_not_written h)

end Sys2Proof.Machine
end

section
/-! Proofs about the reset and the model faults (70_reset_and_hazards.md): a marked FAULT stays (R263, R49). -/

namespace Sys2Proof.Machine

/-- After a model fault no agent has the turn (R236): only the reset input, which is none, still takes a step. -/
theorem nextTurn_of_fault {s : State} {f : Fault} (hf : s.fault = some f) :
    nextTurn s = .reset ∨ nextTurn s = .stopped f := by
  cases ha : s.agenda with
  | nil => exact .inr (by simp [nextTurn, hf, ha])
  | cons e r =>
    cases e with
    | reset => exact .inl (nextTurn_of_reset (by simp [ha]))
    | host a => exact .inr (by simp [nextTurn, hf, ha])
    | engine => exact .inr (by simp [nextTurn, hf, ha])

/-- So a step that answers a next state from a faulted one is the reset (R49, R236). -/
theorem step_of_fault {s t : State} {f : Fault} (hf : s.fault = some f) (h : step s = .next t) :
    t = platformReset (advance s) := by
  rcases nextTurn_of_fault hf with hreset | hstopped
  · simp only [step, hreset] at h
    cases h
    rfl
  · simp only [step, hstopped] at h
    cases h

/-- Settles O9: only the reset answers a next state from a faulted one, and it keeps FAULT (R263). -/
theorem noStepClearsAModelFault : Obligations.NoStepClearsAModelFault := by
  intro s t f h hf
  rw [step_of_fault hf h, platformReset_fault, advance_fault, hf]

end Sys2Proof.Machine
end

section
/-! Proofs about the encoder (30_encoding.md sections 1 and 3): decoder and encoder agree on every field of the command
word (R90, R96, R103). -/

namespace Sys2Proof.Machine

/-! ### The fields of a word -/

/-- Settles O1: the decoder evaluates each of the eleven words. -/
theorem writtenOutWordsDecodeAsTheMapSays : Obligations.WrittenOutWordsDecodeAsTheMapSays := by
  unfold Obligations.WrittenOutWordsDecodeAsTheMapSays
  decide

theorem fieldsOf_rsv_toNat (w : Word) : (fieldsOf w).rsv.toNat = w.toNat / 32 := by
  simp only [fieldsOf, BitVec.extractLsb'_toNat, Nat.shiftRight_eq_div_pow]
  omega

theorem fieldsOf_aw_toNat (w : Word) : (fieldsOf w).aw.toNat = w.toNat / 16 % 2 := by
  simp [fieldsOf, BitVec.extractLsb'_toNat, Nat.shiftRight_eq_div_pow]

theorem fieldsOf_op_toNat (w : Word) : (fieldsOf w).op.toNat = w.toNat % 16 := opcode_toNat w

/-- No bit of a word lies outside the three fields (R90). -/
theorem encodeFields_fieldsOf (w : Word) : encodeFields (fieldsOf w) = w := by
  apply BitVec.eq_of_toNat_eq
  rw [encodeFields_toNat, fieldsOf_rsv_toNat, fieldsOf_aw_toNat, fieldsOf_op_toNat]
  omega

theorem encodeFields_injective : Function.Injective encodeFields := by
  rintro ⟨rsv, aw, op⟩ ⟨rsv', aw', op'⟩ h
  have hnum := congrArg BitVec.toNat h
  simp only [encodeFields_toNat] at hnum
  have haw := aw.isLt
  have haw' := aw'.isLt
  have hop := op.isLt
  have hop' := op'.isLt
  obtain rfl : rsv = rsv' := BitVec.eq_of_toNat_eq (by omega)
  obtain rfl : aw = aw' := BitVec.eq_of_toNat_eq (by omega)
  obtain rfl : op = op' := BitVec.eq_of_toNat_eq (by omega)
  rfl

/-- The fields do not overlap (R90). -/
theorem fieldsOf_encodeFields (f : CmdFields) : fieldsOf (encodeFields f) = f :=
  encodeFields_injective (encodeFields_fieldsOf _)

/-! ### The words of the commands -/

/-- Each command has one word: a word with a reserved field or with AW set is no command's (R96). -/
theorem decodeCmd_eq_ok_iff (w : Word) (i : Instr) : decodeCmd w = .ok i ↔ w = encode i := by
  refine ⟨fun h => ?_, fun h => h ▸ decodeCmd_encode i⟩
  by_cases hreserved : ReservedWord w
  · cases (decodeCmd_of_reserved hreserved).symm.trans h
  · by_cases haw : w.getLsbD 4 = true
    · obtain ⟨hlo, hhi⟩ := sixteenByteAddress_of_not_reserved hreserved haw
      cases (decodeCmd_of_sixteenByteAddress hlo hhi).symm.trans h
    · obtain ⟨j, rfl⟩ := exists_encode_of_not_reserved hreserved haw
      cases (decodeCmd_encode j).symm.trans h
      rfl

theorem fields_wellFormed (i : Instr) : i.fields.wellFormed = true := by cases i <;> rfl

/-- Settles O3: a word and its fields determine each other, so the one word of a command (`decodeCmd_eq_ok_iff`) has that
command's fields, which are well formed. -/
theorem decodeAndEncodeAgreeOnEveryField : Obligations.DecodeAndEncodeAgreeOnEveryField := by
  refine ⟨fieldsOf_encodeFields, encodeFields_fieldsOf, fun f i => ?_, fun i _ => decodeCmd_encode i⟩
  rw [decodeCmd_eq_ok_iff, encode, encodeFields_injective.eq_iff]
  exact ⟨fun h => ⟨h ▸ fields_wellFormed i, h⟩, fun h => h.2⟩

end Sys2Proof.Machine
end

section
/-! Proofs about the step (R74, R203, R236): whose turn it is and what the turn does, and runs without a model fault
(R49). -/

namespace Sys2Proof.Machine

/-! ### One step -/

/-- A word that is a command runs it (R203). -/
theorem step_of_decode_ok {s : State} {w : Word} {i : Instr} (h : s.EngineNext w) (hd : decodeCmd w = .ok i) :
    step s = exec i (advance s) := by
  rw [step_of_engineNext h, hd]

/-- Settles O5: the engine's step on a word that decodes (`step_of_decode_ok`). -/
theorem stepRunsTheDecodedCommand : Obligations.StepRunsTheDecodedCommand :=
  fun _ _ _ hnext hd _ => step_of_decode_ok hnext hd

/-- Without a command in flight the engine's turn is idle (R203). -/
theorem nextTurn_of_no_command {s : State} (hf : s.fault = none) (hp : s.pend = none)
    (ha : s.agenda = [] ∨ s.agenda.head? = some .engine) : nextTurn s = .idle := by
  cases hs : s.agenda with
  | nil => simp [nextTurn, hf, hs, engineTurn, hp]
  | cons e r =>
    obtain rfl : e = .engine := by simpa [hs] using ha
    simp [nextTurn, hf, hs, engineTurn, hp]

/-- Settles O6: an idle turn is only taken off the agenda. -/
theorem engineDoesNothingWithoutACommand : Obligations.EngineDoesNothingWithoutACommand := by
  intro s hf hp ha
  simp only [step, nextTurn_of_no_command hf hp ha]
  rfl

/-- Settles O7: in the host's turn the step is its whole access. -/
theorem stepPerformsTheHostAccess : Obligations.StepPerformsTheHostAccess := by
  intro s a hnext
  simp only [step, nextTurn_of_hostNext hnext]
  rfl

/-- Settles O8: with a marked fault the turn is stopped, unless the next event is the reset. -/
theorem noAgentStepsAfterAModelFault : Obligations.NoAgentStepsAfterAModelFault := by
  intro s f hf hhead
  have hturn : nextTurn s = .stopped f := by
    cases ha : s.agenda with
    | nil => simp [nextTurn, hf, ha]
    | cons e r =>
      cases e with
      | reset => exact absurd (by rw [ha]; rfl) hhead
      | host a => simp [nextTurn, hf, ha]
      | engine => simp [nextTurn, hf, ha]
  simp only [step, hturn]

/-- Settles O16: the reset has the turn whatever is in flight (`nextTurn_of_reset`). -/
theorem resetAbandonsTheCommandInFlight : Obligations.ResetAbandonsTheCommandInFlight := by
  intro s hhead
  simp only [step, nextTurn_of_reset hhead]
  rfl

/-! ### Runs -/

theorem run_succ {M : Host.Core} {k : Nat} {s t : M.State} :
    M.run (k + 1) s = .next t ↔ ∃ u, M.step s = .next u ∧ M.run k u = .next t := by
  rw [Host.Core.run]
  cases M.step s <;> simp

/-- A run of `j + m` steps is a run of `j` steps, then one of `m`. -/
theorem run_add {M : Host.Core} {j m : Nat} {s t : M.State} :
    M.run (j + m) s = .next t ↔ ∃ u, M.run j s = .next u ∧ M.run m u = .next t := by
  induction j generalizing s with
  | zero => simp [Host.Core.run]
  | succ j ih =>
    simp only [Nat.add_right_comm j 1 m, run_succ, ih]
    constructor
    · rintro ⟨v, hv, u, hu, hrest⟩
      exact ⟨u, ⟨v, hv, hu⟩, hrest⟩
    · rintro ⟨u, ⟨v, hv, hu⟩, hrest⟩
      exact ⟨v, hv, u, hu, hrest⟩

/-- No run clears a marked fault (R49). -/
theorem run_keeps_fault {k : Nat} {s t : State} {f : Fault} (h : core.run k s = .next t) (hf : s.fault = some f) :
    t.fault = some f := by
  induction k generalizing s with
  | zero => cases h; exact hf
  | succ k ih =>
    obtain ⟨u, hstep, hrun⟩ := run_succ.mp h
    exact ih hrun (noStepClearsAModelFault s u f hstep hf)

/-- Settles O10: a fault marked in the middle of the run would still be marked at its end. -/
theorem safeRunIsSafeThroughout : Obligations.SafeRunIsSafeThroughout := by
  rintro j k s t hjk ⟨hrun, hsafe⟩
  obtain ⟨m, rfl⟩ := Nat.exists_eq_add_of_le hjk
  obtain ⟨u, hfirst, hrest⟩ := run_add.mp hrun
  have hmiddle : u.fault = none := by
    cases hf : u.fault with
    | none => rfl
    | some f => cases hsafe.symm.trans (run_keeps_fault hrest hf)
  rw [Nat.add_sub_cancel_left]
  exact ⟨u, ⟨hfirst, hmiddle⟩, hrest, hsafe⟩

end Sys2Proof.Machine
end

section
/-! Proofs about the completion step (R203): the outcomes of a command, what each leaves unchanged (its frame), and what
it makes of STATUS and PEND (R222, R227). -/

namespace Sys2Proof.Machine

/-! ### The outcomes of a command -/

/-- `t` is a next state the completion of command `i` can answer from `s`, with what it stores to the buffer: one
constructor per outcome of R141, R146, R151, R181, R186 and R205. -/
inductive Completes (s : State) : Instr → State → Prop
  | uninitRead (i : Instr) : Completes s i (modelFault .uninitRead s)
  | lenRange (i : Instr) : Completes s i (errorCompletion .lenRange s)
  | nop : Completes s .nop (succeed s)
  | checksum {i : Instr} (hi : i = .csumRecv ∨ i = .csumSend ∨ i = .pseudoSum) (c : Word) :
      Completes s i (succeed (writeOutputs c 0 0 0 s))
  | encode (c : Word) (n : Half) {header : List Byte} (h : header.length ≤ 8) :
      Completes s .encode (succeed (writeOutputs c 0 0 n (memWrite 0 header s)))
  | decode (v : Verdict) (a b c : Word) (n : Half) :
      Completes s .decode (succeed (judge v (writeOutputs a b c n s)))

theorem completes_of_checksumCommand {f : List Byte → Word → Word → Half} {i : Instr} {s t : State}
    (hi : i = .csumRecv ∨ i = .csumSend ∨ i = .pseudoSum) (h : checksumCommand f s = .next t) : Completes s i t := by
  rcases checksumCommand_cases f s with ⟨-, e⟩ | ⟨-, -, e⟩ | ⟨-, d, -, -, e⟩ <;> cases e.symm.trans h
  · exact .lenRange i
  · exact .uninitRead i
  · exact .checksum hi _

theorem completes_of_execEncode {s t : State} (h : execEncode s = .next t) : Completes s .encode t := by
  rcases execEncode_cases s with ⟨-, e⟩ | ⟨-, -, e⟩ | ⟨-, payload, -, -, e⟩ <;> cases e.symm.trans h
  · exact .lenRange _
  · exact .uninitRead _
  · exact .encode _ _ (List.length_take_le 8 _)

theorem completes_of_execDecode {s t : State} (h : execDecode s = .next t) : Completes s .decode t := by
  have hreport : ∀ n r, Completes s .decode (reportDecode n r s) := fun n r => by
    obtain ⟨a, b, c, o, e⟩ := reportDecode_eq n r s
    exact e ▸ .decode _ a b c o
  rcases execDecode_cases s with ⟨-, e⟩ | ⟨-, -, e⟩ | ⟨-, raw, -, -, e⟩ <;> cases e.symm.trans h
  · exact hreport _ _
  · exact .uninitRead _
  · exact hreport _ _

/-- Every next state of a command is one of its outcomes. -/
theorem completes_of_exec {i : Instr} {s t : State} (h : exec i s = .next t) : Completes s i t := by
  cases i with
  | nop => cases h; exact .nop
  | csumRecv => exact completes_of_checksumCommand (.inl rfl) h
  | csumSend => exact completes_of_checksumCommand (.inr (.inl rfl)) h
  | pseudoSum => exact completes_of_checksumCommand (.inr (.inr rfl)) h
  | encode => exact completes_of_execEncode h
  | decode => exact completes_of_execDecode h

/-! ### Frames -/

/-- No outcome changes CTRL, CMD or an operand register, nor what is not the block's. -/
theorem Completes.keepsOperands {i : Instr} {s t : State} (h : Completes s i t) :
    t.irqEn = s.irqEn ∧ t.cmd = s.cmd ∧ t.len = s.len ∧ t.srcIp = s.srcIp ∧ t.dstIp = s.dstIp ∧
      t.ports = s.ports ∧ t.agenda = s.agenda ∧ t.hostData = s.hostData ∧ t.draws = s.draws := by
  cases h <;> simp

/-- Only ENCODE stores to the buffer. -/
theorem Completes.mem_eq {i : Instr} {s t : State} (h : Completes s i t) (hi : i ≠ .encode) : t.mem = s.mem := by
  cases h with
  | encode => exact absurd rfl hi
  | uninitRead | lenRange | nop | checksum | decode => simp

/-- What a command stores, if anything, is a header's bytes at the start of the buffer. -/
theorem Completes.mem_writeBytes {i : Instr} {s t : State} (h : Completes s i t) :
    ∃ header : List Byte, header.length ≤ 8 ∧ t.mem = s.mem.writeBytes 0 header := by
  cases h with
  | encode c n hlen => exact ⟨_, hlen, rfl⟩
  | uninitRead | lenRange | nop | checksum | decode => exact ⟨[], Nat.zero_le 8, rfl⟩

/-- Settles O29: `Completes.mem_eq` and `Completes.keepsOperands`. -/
theorem readingCommandsKeepBufferAndOperands : Obligations.ReadingCommandsKeepBufferAndOperands := by
  intro i s t hi h
  have hcompletes := completes_of_exec h
  have hmem : t.mem = s.mem := hcompletes.mem_eq hi
  exact ⟨fun a => by rw [hmem], hmem, hcompletes.keepsOperands⟩

/-- Settles O30: what ENCODE stores ends before byte 8 (`Completes.mem_writeBytes`). -/
theorem encodeKeepsAllButTheHeader : Obligations.EncodeKeepsAllButTheHeader := by
  intro s t h
  have hcompletes := completes_of_exec h
  obtain ⟨header, hlen, hmem⟩ := hcompletes.mem_writeBytes
  refine ⟨fun a ha => ?_, hcompletes.keepsOperands⟩
  rw [hmem, Memory.read_writeBytes_outside _ _ _ (by omega)]

/-! ### STATUS and PEND -/

/-- Settles O31: the two outcomes that are no success are the first two cases; each success sets DONE and clears BUSY and
PEND, and the verdict is DECODE's alone. -/
theorem commandsChangeStatusOnlyAsCompleted : Obligations.CommandsChangeStatusOnlyAsCompleted := by
  intro i s t h
  cases completes_of_exec h with
  | uninitRead => exact .inl rfl
  | lenRange => exact .inr (.inl rfl)
  | nop => exact .inr (.inr ⟨rfl, rfl, fun _ => ⟨rfl, rfl, rfl, rfl⟩, fun _ => rfl, nofun⟩)
  | checksum hi c =>
    have hnop : i ≠ .nop := by rcases hi with rfl | rfl | rfl <;> decide
    exact .inr (.inr ⟨rfl, rfl, fun h => absurd h hnop, fun _ => rfl, fun _ => rfl⟩)
  | encode c n hlen => exact .inr (.inr ⟨rfl, rfl, nofun, fun _ => rfl, nofun⟩)
  | decode v a b c n => exact .inr (.inr ⟨rfl, rfl, nofun, fun h => absurd rfl h, fun _ => rfl⟩)

/-- Settles O23: R222's state is `errorCompletion` written out. -/
theorem errorCompletionWritesStatusOnly : Obligations.ErrorCompletionWritesStatusOnly := fun _ _ => rfl

/-- A completion that is no model fault ends the command (R203). -/
theorem Completes.ends {i : Instr} {s t : State} (h : Completes s i t) (hf : t.fault = none) :
    t.status.busy = false ∧ t.pend = none := by
  cases h with
  | uninitRead => cases hf
  | lenRange | nop | checksum | encode | decode => exact ⟨rfl, rfl⟩

/-- Settles O11: the word in flight completes with its error, or with its command's outcome, which is UNINIT_READ's mark
or no model fault at all. -/
theorem completionStepEndsTheCommand : Obligations.CompletionStepEndsTheCommand := by
  intro s w hnext
  have hfault : (advance s).fault = none := hnext.1
  cases hd : decodeCmd w with
  | error e => exact ⟨_, step_of_decode_error hnext hd, .inl ⟨rfl, rfl, hfault⟩⟩
  | ok i =>
    obtain ⟨t, ht, -⟩ := exec_cases i (advance s)
    refine ⟨t, (step_of_decode_ok hnext hd).trans ht, ?_⟩
    cases completes_of_exec ht with
    | uninitRead => exact .inr rfl
    | lenRange | nop | checksum | encode | decode => exact .inl ⟨rfl, rfl, hfault⟩

/-- From the status since issue a completion sets one of DONE and ERR (R227). -/
theorem Completes.done_eq_not_err {i : Instr} {s t : State} (h : Completes s i t) (hs : s.status = statusIssued)
    (hf : t.fault = none) : t.status.done = !t.status.err := by
  cases h with
  | uninitRead => cases hf
  | lenRange | nop | checksum | encode | decode => simp [hs]

/-- Settles O12: an error completion sets ERR alone; a command's outcome is `Completes.done_eq_not_err`'s. -/
theorem completionSetsExactlyOneOfDoneAndErr : Obligations.CompletionSetsExactlyOneOfDoneAndErr := by
  intro s t w hnext hstatus h hf
  rw [step_of_engineNext hnext] at h
  split at h
  · cases h
    exact ⟨rfl, rfl, rfl⟩
  · have hcompletes := completes_of_exec h
    obtain ⟨hbusy, hpend⟩ := hcompletes.ends hf
    exact ⟨hbusy, hpend, hcompletes.done_eq_not_err hstatus hf⟩

end Sys2Proof.Machine
end

section
/-! Proofs about the invariant of the machine (10_state.md): R38's invariants, PEND exactly while BUSY (R48), CMD in
flight (R26) and the buffer's canonical form hold after reset and are kept by every step. -/

namespace Sys2Proof.Machine

/-! ### STATUS -/

/-- While BUSY nothing else is set, which is the status since issue (R38, R201). -/
theorem status_eq_issued {t : Status} (hlegal : t.Legal) (hbusy : t.busy = true) : t = statusIssued := by
  obtain ⟨busy, done, err, accept, reason, errcode⟩ := t
  obtain ⟨rfl, rfl, rfl, rfl, rfl⟩ : done = false ∧ err = false ∧ accept = false ∧ reason = none ∧ errcode = none :=
    hlegal.1 hbusy
  cases hbusy
  rfl

theorem statusZero_legal : Status.zero.Legal := by decide

theorem statusIssued_legal : statusIssued.Legal := by decide

theorem statusFailed_legal (e : CmdError) : (statusFailed e).Legal := by simp [Status.Legal]

theorem statusDone_issued_legal : (statusDone statusIssued).Legal := by decide

/-- ACCEPT is set exactly with an accepting verdict (R36, R186). -/
theorem statusDone_judged_issued_legal (v : Verdict) : (statusDone (statusJudged v statusIssued)).Legal := by
  cases v <;> decide

/-- An acknowledgement clears ERR and ERRCODE together (R207). -/
theorem statusAcked_legal {t : Status} (h : t.Legal) (v : Word) : (statusAcked v t).Legal := by
  obtain ⟨hbusy, hexclusive, herrcode, haccept⟩ := h
  refine ⟨fun hb => ?_, ?_, ?_, haccept⟩
  · simp [hbusy hb]
  · simp only [statusAcked_done, statusAcked_err, Bool.and_eq_true]
    exact fun hboth => hexclusive ⟨hboth.1.1, hboth.2.1⟩
  · rw [statusAcked_errcode, statusAcked_err]
    cases v.getLsbD 2 <;> simp [herrcode]

/-! ### Completions -/

/-- The invariant where no command is in flight. -/
theorem inv_of_idle {t : State} (hmem : t.mem.wf) (hlegal : t.status.Legal) (hbusy : t.status.busy = false)
    (hpend : t.pend = none) : t.Inv :=
  ⟨hmem, hlegal, by rw [hpend, hbusy]; rfl, .inl hpend⟩

theorem platformReset_inv (s : State) : (platformReset s).Inv :=
  inv_of_idle ⟨List.Pairwise.nil, nofun⟩ statusZero_legal rfl rfl

theorem errorCompletion_inv {s : State} (h : s.Inv) (e : CmdError) : (errorCompletion e s).Inv :=
  inv_of_idle h.1 (statusFailed_legal e) rfl rfl

theorem Completes.mem_wf {i : Instr} {s t : State} (h : Completes s i t) (hmem : s.mem.wf) : t.mem.wf := by
  obtain ⟨header, hlen, hstored⟩ := h.mem_writeBytes
  rw [hstored]
  exact Memory.writeBytes_wf hmem (by unfold Config.bufSize; omega)

/-- The outcome of a command in flight meets the invariant. -/
theorem Completes.inv {i : Instr} {s t : State} (h : Completes s i t) (hinv : s.Inv) {w : Word}
    (hpend : s.pend = some w) : t.Inv := by
  obtain ⟨hmem, hlegal, hbusy, -⟩ := id hinv
  have hissued : s.status = statusIssued := status_eq_issued hlegal (by rw [← hbusy, hpend]; rfl)
  have hmem' : t.mem.wf := h.mem_wf hmem
  cases h with
  | uninitRead => exact hinv
  | lenRange => exact errorCompletion_inv hinv _
  | nop | checksum | encode =>
    exact inv_of_idle hmem' (by simpa [hissued] using statusDone_issued_legal) rfl rfl
  | decode v => exact inv_of_idle hmem' (by simpa [hissued] using statusDone_judged_issued_legal v) rfl rfl

/-! ### Host accesses -/

/-- A register write that R270 allows. -/
theorem storeReg_inv {s : State} (h : s.Inv) (r : Reg) (v : Word) : (storeReg r v s).Inv := by
  obtain ⟨hmem, hlegal, hpend, hcmd⟩ := id h
  cases r with
  | cmd => exact ⟨hmem, statusIssued_legal, rfl, .inr rfl⟩
  | status => exact ⟨hmem, statusAcked_legal hlegal v, hpend, hcmd⟩
  | ctrl | len | srcIp | dstIp | ports | result | rxPorts | rxFields | outLen => exact h

/-- A buffer write of a shape R66 gives stays in the buffer. -/
theorem memWrite_inv {s : State} (h : s.Inv) {width : Nat} {off : Offset} (hshape : BufferShape width off) (v : Word) :
    (memWrite (bufIndex off) (splitBytes width v) s).Inv := by
  obtain ⟨hmem, hrest⟩ := h
  refine ⟨Memory.writeBytes_wf hmem ?_, hrest⟩
  rw [splitBytes_length v hshape]
  exact bufferShape_bound hshape

theorem hostAccess_inv {s : State} (h : s.Inv) (a : Access) : (hostAccess a s).Inv := by
  cases a with
  | read width off =>
    rcases hostAccess_read_cases width off s with ⟨f, e⟩ | ⟨v, e⟩ | ⟨n, e⟩ <;>
      rw [e] <;> exact h
  | write width off v =>
    rcases hostAccess_write_cases width off v s with ⟨f, e⟩ | e | ⟨r, -, e⟩ | ⟨hshape, -, e⟩
    · rw [e]; exact h
    · rw [e]; exact h
    · rw [e]; exact storeReg_inv h r v
    · rw [e]; exact memWrite_inv h hshape v

/-! ### Every step -/

/-- Settles O13: each case of a step (`step_cases`) keeps the invariant. -/
theorem everyStepKeepsTheInvariant : Obligations.EveryStepKeepsTheInvariant := by
  intro s t hinv hstep
  have hadvance : (advance s).Inv := hinv
  rcases step_cases hstep with rfl | ⟨a, -, rfl⟩ | rfl | ⟨w, e, -, -, -, rfl⟩ | ⟨w, i, -, hpend, -, hexec⟩
  · exact platformReset_inv _
  · exact hostAccess_inv hadvance a
  · exact hadvance
  · exact errorCompletion_inv hadvance e
  · exact (completes_of_exec hexec).inv hadvance hpend

/-- Settles O14: the state after reset is itself the reset of a state. -/
theorem resetStateMeetsTheInvariant : Obligations.ResetStateMeetsTheInvariant :=
  platformReset_inv State.reset

end Sys2Proof.Machine
end

section
/-! Proofs about STATUS as read and about the lines of a host program (10_state.md section 2, 30_encoding.md section 5):
each field at its bits (R32 to R38), and the access each line is (R104, R105). -/

namespace Sys2Proof.Machine

/-! ### STATUS as read -/

theorem reasonBits_eq (r : Option Verdict) : reasonBits r =
    (if r = some .accFull then 1 else if r = some .accPseudo then 2 else if r = some .rejShort then 3
      else if r = some .rejPort then 4 else if r = some .rejCsum then 5 else 0) := by
  cases r with
  | none => rfl
  | some v => cases v <;> rfl

theorem errcodeBits_eq (e : Option CmdError) : errcodeBits e =
    (if e = some .illegalCmd then 1 else if e = some .addrWidth then 2 else if e = some .lenRange then 3 else 0) := by
  cases e with
  | none => rfl
  | some e => cases e <;> rfl

/-- STATUS as a number: each field at its weight (R32 to R37). -/
theorem statusWord_toNat (t : Status) : (statusWord t).toNat =
    (errcodeBits t.errcode).toNat * 256 + (reasonBits t.reason).toNat * 16 + t.accept.toNat * 8 + t.err.toNat * 4
      + t.done.toNat * 2 + t.busy.toNat := by
  refine (append_toNat _ _).trans ?_
  simp only [append_toNat, BitVec.toNat_ofBool, BitVec.ofNat_eq_ofNat, BitVec.toNat_ofNat]
  omega

theorem getLsbD_eq_of_toNat {x : Word} {i : Nat} {b : Bool} (h : x.toNat / 2 ^ i % 2 = b.toNat) :
    x.getLsbD i = b := by
  rw [BitVec.getLsbD, Nat.testBit_eq_decide_div_mod_eq, h]
  cases b <;> rfl

theorem extractLsb'_eq_of_toNat {x : Word} {i n : Nat} {y : BitVec n} (h : x.toNat / 2 ^ i % 2 ^ n = y.toNat) :
    x.extractLsb' i n = y := by
  apply BitVec.eq_of_toNat_eq
  rw [BitVec.extractLsb'_toNat, Nat.shiftRight_eq_div_pow, h]

/-- Settles O54: the fields' weights in the number (`statusWord_toNat`) are their bits; the codes are `reasonBits_eq` and
`errcodeBits_eq`. -/
theorem statusReadsWithItsBitsInPlace : Obligations.StatusReadsWithItsBitsInPlace := by
  intro t
  have hword := statusWord_toNat t
  have hreason := (reasonBits t.reason).isLt
  have herrcode := (errcodeBits t.errcode).isLt
  have haccept := t.accept.toNat_lt
  have herr := t.err.toNat_lt
  have hdone := t.done.toNat_lt
  have hbusy := t.busy.toNat_lt
  rw [← reasonBits_eq, ← errcodeBits_eq]
  refine ⟨getLsbD_eq_of_toNat ?_, getLsbD_eq_of_toNat ?_, getLsbD_eq_of_toNat ?_, getLsbD_eq_of_toNat ?_,
    extractLsb'_eq_of_toNat ?_, getLsbD_eq_of_toNat ?_, extractLsb'_eq_of_toNat ?_, extractLsb'_eq_of_toNat ?_⟩
  · omega
  · omega
  · omega
  · omega
  · omega
  · rw [Bool.toNat_false]; omega
  · omega
  · rw [BitVec.ofNat_eq_ofNat, BitVec.toNat_zero]; omega

/-! ### Lines of a host program -/

/-- R104's side condition on `b` is the shape R65 and R66 ask of the offset. -/
theorem bufferShape_bufOffset {width : Nat} {b : Half}
    (h : width = 8 ∨ (width = 16 ∧ b.toNat % 2 = 0) ∨ (width = 32 ∧ b.toNat % 4 = 0)) :
    BufferShape width (bufOffset b) := by
  rw [BufferShape, bufOffset_toNat]
  omega

theorem zero_append_byte (v : Byte) : (0 : BitVec 24) ++ v = BitVec.ofNat 32 v.toNat := by
  apply BitVec.eq_of_toNat_eq
  refine (append_toNat _ _).trans ?_
  bv_omega

theorem pair_zero_eq_ofNat (v : Half) : pair 0 v = BitVec.ofNat 32 v.toNat := by
  apply BitVec.eq_of_toNat_eq
  rw [pair_toNat]
  bv_omega

theorem eq_bufOffset {b : Half} {off : Offset} (h : off.toNat = 0x10000 + b.toNat) : off = bufOffset b :=
  BitVec.eq_of_toNat_eq (h.trans (bufOffset_toNat b).symm)

/-- R22's table of the registers. -/
theorem eq_offset_of_mem_table {r : Reg} {off : Offset}
    (h : (r, off) ∈ [(Reg.ctrl, (0x00000 : Offset)), (.cmd, 0x00004), (.status, 0x00008), (.len, 0x0000C),
      (.srcIp, 0x00010), (.dstIp, 0x00014), (.ports, 0x00018), (.result, 0x0001C), (.rxPorts, 0x00020),
      (.rxFields, 0x00024), (.outLen, 0x00028)]) : off = Reg.offset r := by
  revert h
  cases r <;> simp [Reg.offset]

/-! ### BYTES -/

/-- Inside BUF a byte of a `BYTES` line is the write of its value at its place (R105). -/
theorem byteEvents_eq {b : Nat} (h : b < 0x10000) (x : Byte) :
    byteEvents b x = [.host (.write 8 (BitVec.ofNat 17 (0x10000 + b)) (BitVec.ofNat 32 x.toNat))] := by
  have hoff : BitVec.ofNat 17 (0x10000 + b) = bufOffset (BitVec.ofNat 16 b) :=
    eq_bufOffset (by simp only [BitVec.toNat_ofNat]; omega)
  rw [byteEvents_of_lt h, hoff, ← zero_append_byte]
  rfl

theorem bytesEvents_length (b : Nat) (xs : List Byte) :
    (bytesEvents b xs).length = min xs.length (0x10000 - b) := by
  induction xs generalizing b with
  | nil => simp [bytesEvents]
  | cons x xs ih =>
    by_cases h : b < 0x10000
    · rw [bytesEvents, byteEvents_eq h, List.length_append, ih]
      simp only [List.length_cons, List.length_nil]
      omega
    · rw [bytesEvents_of_le (Nat.not_lt.mp h), List.length_nil]
      omega

theorem getElem?_bytesEvents {b k : Nat} {xs : List Byte} {x : Byte} (hx : xs[k]? = some x) (h : b + k < 0x10000) :
    (bytesEvents b xs)[k]? =
      some (.host (.write 8 (BitVec.ofNat 17 (0x10000 + b + k)) (BitVec.ofNat 32 x.toNat))) := by
  induction xs generalizing b k with
  | nil => cases hx
  | cons y xs ih =>
    rw [bytesEvents, byteEvents_eq (by omega)]
    cases k with
    | zero => cases hx; rfl
    | succ k =>
      have htail := ih (b := b + 1) (k := k) hx (by omega)
      rw [show 0x10000 + b + (k + 1) = 0x10000 + (b + 1) + k by omega]
      exact htail

/-- Settles O4: a register's offset has R63's shape and a buffer byte's R65's (`bufferShape_bufOffset`), the offsets are
R22's table and `bufOffset`, and `BYTES` is read off byte by byte (`getElem?_bytesEvents`). -/
theorem wellFormedLinesAreLegalAccesses : Obligations.WellFormedLinesAreLegalAccesses := by
  refine ⟨fun l h => ?_, fun r off h => ?_, fun b off h => ?_, fun i => rfl, rfl,
    fun b xs => ⟨bytesEvents_length b xs, fun k x => getElem?_bytesEvents⟩⟩
  · cases l with
    | wr r v | rd r => exact .inl (registerShape_offset r)
    | wrb b v | rdb b => exact .inr (bufferShape_bufOffset (.inl rfl))
    | wrh b v | rdh b => exact .inr (bufferShape_bufOffset (.inr (.inl ⟨rfl, beq_iff_eq.mp h⟩)))
    | wrw b v | rdw b => exact .inr (bufferShape_bufOffset (.inr (.inr ⟨rfl, beq_iff_eq.mp h⟩)))
  · rw [eq_offset_of_mem_table h]
    exact ⟨fun v => rfl, rfl⟩
  · rw [eq_bufOffset h]
    refine ⟨fun v => ?_, fun v => ?_, fun v => rfl, rfl, rfl, rfl⟩
    · rw [lineAccess, zero_append_byte]
    · rw [lineAccess, pair_zero_eq_ofNat]

end Sys2Proof.Machine
end

section
/-! Proofs about the host's accesses (20_memory.md, 70_reset_and_hazards.md section 3): register reads (R210), buffer
reads (R65), the accesses in flight (R270, R271), illegal shapes (R67), and what a read leaves unchanged (R72). -/

namespace Sys2Proof.Machine

/-! ### Register reads -/

theorem hostAccess_read_current {r : Reg} (hr : isOutput r = false) (s : State) :
    hostAccess (.read 32 (Reg.offset r)) s = respond (readReg r s) s := by
  rw [hostAccess_read_register, readRegister, hr, Bool.and_false]
  rfl

theorem hostAccess_read_output {r : Reg} (hr : isOutput r = true) (s : State) :
    hostAccess (.read 32 (Reg.offset r)) s =
      if s.status.busy then respondAny 32 s else respond (readReg r s) s := by
  rw [hostAccess_read_register, readRegister, hr, Bool.and_true]

theorem readReg_ctrl (s : State) : readReg .ctrl s = if s.irqEn then 1 else 0 := by
  cases h : s.irqEn <;> simp [readReg, h]

/-- Settles O53: each offset is a register's, and `readReg` is its value. -/
theorem registerReadsReturnCurrentValues : Obligations.RegisterReadsReturnCurrentValues := by
  refine ⟨fun s => ?_, fun s off v h => ?_⟩
  · have hread : ∀ r, isOutput r = false → hostAccess (.read 32 (Reg.offset r)) s = respond (readReg r s) s :=
      fun r hr => hostAccess_read_current hr s
    have hlen : readReg .len s = BitVec.ofNat 32 s.len.toNat := pair_zero_eq_ofNat s.len
    exact ⟨readReg_ctrl s ▸ hread .ctrl rfl, hread .cmd rfl, hread .status rfl, hlen ▸ hread .len rfl,
      hread .srcIp rfl, hread .dstIp rfl, hread .ports rfl⟩
  · obtain ⟨r, hr, rfl, rfl⟩ : ∃ r, isOutput r = true ∧ off = Reg.offset r ∧ v = readReg r s := by
      rcases h with ⟨rfl, rfl⟩ | ⟨rfl, rfl⟩ | ⟨rfl, rfl⟩ | ⟨rfl, rfl⟩
      exacts [⟨.result, rfl, rfl, rfl⟩, ⟨.rxPorts, rfl, rfl, rfl⟩, ⟨.rxFields, rfl, rfl, rfl⟩,
        ⟨.outLen, rfl, rfl, (pair_zero_eq_ofNat s.outLen).symm⟩]
    rw [hostAccess_read_output hr, respondAny_word]
    rfl

/-- Settles O59: every outcome of a read (`hostAccess_read_cases`) is a model fault, a value or a free draw. -/
theorem hostReadsHaveNoSideEffects : Obligations.HostReadsHaveNoSideEffects := by
  rintro s t width off rfl
  rcases hostAccess_read_cases width off s with ⟨f, e⟩ | ⟨v, e⟩ | ⟨n, e⟩ <;> rw [e] <;> rfl

/-! ### Illegal shapes -/

/-- Settles O56: the model's shape check is the two rules' (`legalShape_iff`), and it comes first. -/
theorem illegalShapesAreHostBusErrors : Obligations.IllegalShapesAreHostBusErrors := by
  intro s width off v hregister hbuffer
  have hillegal : legalShape width off = false := by
    rw [← Bool.not_eq_true, legalShape_iff]
    exact not_or.mpr ⟨hregister, hbuffer⟩
  constructor <;> (rw [hostAccess, hillegal]; rfl)

/-! ### Buffer reads -/

theorem readBuffer_of_holds {width b : Nat} {s : State} {d : List Byte} (hlen : d.length = width / 8)
    (hd : s.Holds b d) :
    readBuffer width b s = if s.status.busy then respondAny width s else respond (joinBytes d) s := by
  have hread : memRead b (width / 8) s = some d := hlen ▸ memRead_of_holds hd
  rw [readBuffer, hread]

/-- R65's byte order, for the three widths. -/
theorem joinBytes_eq_ofNat {width : Nat} {off : Offset} (h : BufferShape width off) {d : List Byte}
    (hlen : d.length = width / 8) :
    joinBytes d = BitVec.ofNat 32 (
      if width = 8 then (byteAt d 0).toNat
      else if width = 16 then (byteAt d 0).toNat * 256 + (byteAt d 1).toNat
      else (byteAt d 0).toNat * 16777216 + (byteAt d 1).toNat * 65536 + (byteAt d 2).toNat * 256
        + (byteAt d 3).toNat) := by
  have hnum : ∀ x : Word, x = BitVec.ofNat 32 x.toNat := fun x => by simp
  rw [hnum (joinBytes d)]
  congr 1
  obtain ⟨-, rfl | ⟨rfl, -⟩ | ⟨rfl, -⟩⟩ := h
  · obtain ⟨a, rfl⟩ := List.length_eq_one_iff.mp hlen
    exact joinBytes_one a
  · obtain ⟨a, b, rfl⟩ := List.length_eq_two.mp hlen
    exact joinBytes_two a b
  · match d, hlen with
    | [a, b, c, e], _ => exact joinBytes_four a b c e

/-- Settles O57: with no command in flight the read answers the joined bytes (`readBuffer_of_holds`). -/
theorem bufferReadsAreBigEndian : Obligations.BufferReadsAreBigEndian := by
  intro s width off d hidle hshape hlen hd
  have hread : readBuffer width (bufIndex off) s = respond (joinBytes d) s :=
    (readBuffer_of_holds hlen hd).trans (by rw [hidle]; rfl)
  rw [hostAccess_read_buffer hshape, hread, respond, joinBytes_eq_ofNat hshape hlen]

/-! ### Accesses in flight -/

theorem readBuffer_in_flight {width b : Nat} {s : State} (hbusy : s.status.busy = true)
    (hwritten : s.Written b (width / 8)) : readBuffer width b s = respondAny width s := by
  obtain ⟨d, hlen, hd, -⟩ := memRead_of_written hwritten
  rw [readBuffer_of_holds hlen hd, if_pos hbusy]

/-- Settles O49: in flight the four output registers and the written bytes are free draws, unwritten bytes a model fault. -/
theorem outputReadsInFlightAreFreshDraws : Obligations.OutputReadsInFlightAreFreshDraws := by
  refine fun s hbusy => ⟨fun off hoff => ?_, fun width off hshape hwritten => ?_, fun width off hshape hwritten => ?_⟩
  · obtain ⟨r, hr, rfl⟩ := output_of_offset hoff
    rw [hostAccess_read_output hr, if_pos hbusy, respondAny_word]
  · exact (hostAccess_read_buffer hshape s).trans (readBuffer_in_flight hbusy hwritten)
  · exact (hostAccess_read_buffer hshape s).trans (readBuffer_of_not_written hwritten)

theorem operand_of_offset {off : Offset} (h : off ∈ [0x00004, 0x0000C, 0x00010, 0x00014, 0x00018]) :
    ∃ r, isOperand r = true ∧ off = Reg.offset r := by
  simp only [List.mem_cons, List.not_mem_nil, or_false] at h
  rcases h with rfl | rfl | rfl | rfl | rfl
  exacts [⟨.cmd, rfl, rfl⟩, ⟨.len, rfl, rfl⟩, ⟨.srcIp, rfl, rfl⟩, ⟨.dstIp, rfl, rfl⟩, ⟨.ports, rfl, rfl⟩]

/-- From RESULT on, the register window holds output registers and reserved offsets, which ignore a write (R64, R209). -/
theorem hostAccess_write_ignored {off : Offset} (hshape : RegisterShape 32 off) (hoff : 0x1C ≤ off.toNat) (v : Word)
    (s : State) : hostAccess (.write 32 off v) s = s := by
  cases hr : regAt off with
  | none => exact hostAccess_write_reserved hshape hr v s
  | some r =>
    obtain rfl := regAt_eq_some hr
    have houtput : isOutput r = true := by revert hoff; cases r <;> decide
    exact hostAccess_write_output houtput v s

/-- Settles O48: the writes of the operands and of the buffer are hazards; of the others only CTRL's and STATUS's store. -/
theorem operandWritesInFlightAreHazards : Obligations.OperandWritesInFlightAreHazards := by
  refine fun s hbusy => ⟨fun off v hoff => ?_, fun width off v hshape => ?_, fun off v hoff => ?_,
    fun off v hshape hoff => hostAccess_write_ignored hshape hoff v s⟩
  · obtain ⟨r, hr, rfl⟩ := operand_of_offset hoff
    exact hostAccess_write_hazard hbusy hr v
  · rw [hostAccess_write_buffer hshape, writeBuffer, if_pos hbusy]
    rfl
  · rcases hoff with rfl | rfl
    · rw [hostAccess_write_ctrl]
    · rw [hostAccess_write_status, acknowledge_fault]

end Sys2Proof.Machine
end

section
/-! Proofs about the word sums (40_checksum.md sections 1 and 2): they fit the accumulator (R124), and they are the
datagram's bytes at their weights, bytes 6 and 7 counted as zero (R125). -/

namespace Sys2Proof.Machine

/-! ### The accumulator -/

theorem words_length_le {d : List Byte} (h : d.length ≤ 65535) : (words d).length ≤ 32767 := by
  have hexcise : (excise d).length ≤ 65533 := by
    simp only [excise, List.length_append, List.length_take, List.length_drop]
    omega
  have hpad := padEven_length_le (excise d)
  have hwords : (words d).length = (padEven (excise d)).length / 2 := pairWords_length _
  omega

/-- Settles O35: 32767 words of at most 65535 each. -/
theorem accumulatorCannotOverflow : Obligations.AccumulatorCannotOverflow := by
  intro d hd
  have hlen := words_length_le hd
  have hsum := sumWords_le (words d)
  exact ⟨hlen, by omega, Nat.mod_eq_of_lt (by omega)⟩

/-! ### The bytes at their weights -/

/-- What byte `k` of a sequence adds to the sum of its words: it is the high byte of its word or the low one (R125). -/
def byteWeight (d : List Byte) (k : Nat) : Nat :=
  if k % 2 = 0 then (byteAt d k).toNat * 256 else (byteAt d k).toNat

theorem byteWeight_cons_cons (h l : Byte) (e : List Byte) (k : Nat) :
    byteWeight (h :: l :: e) (2 + k) = byteWeight e k := by
  have hparity : (2 + k) % 2 = k % 2 := Nat.add_mod_left 2 k
  rw [byteWeight, byteWeight, hparity, Nat.add_comm]
  rfl

/-- The first word's two bytes, then the bytes of the rest. -/
theorem sum_byteWeight_cons_cons (h l : Byte) (e : List Byte) :
    ((List.range (h :: l :: e).length).map (byteWeight (h :: l :: e))).sum =
      h.toNat * 256 + l.toNat + ((List.range e.length).map (byteWeight e)).sum := by
  have hrange : List.range (h :: l :: e).length = [0, 1] ++ (List.range e.length).map (2 + ·) := by
    rw [List.length_cons, List.length_cons, Nat.add_assoc, Nat.add_comm, List.range_add]
    rfl
  have hrest : byteWeight (h :: l :: e) ∘ (2 + ·) = byteWeight e := funext (byteWeight_cons_cons h l e)
  rw [hrange, List.map_append, List.sum_append, List.map_map, hrest]
  rfl

theorem padEven_of_even {e : List Byte} (h : e.length % 2 = 0) : padEven e = e := if_neg (by omega)

theorem padEven_cons_cons (h l : Byte) (e : List Byte) : padEven (h :: l :: e) = h :: l :: padEven e :=
  padEven_append (a := [h, l]) (by simp) e

theorem sumWords_pairWords_cons_cons (h l : Byte) (e : List Byte) :
    sumWords (pairWords (h :: l :: e)) = h.toNat * 256 + l.toNat + sumWords (pairWords e) :=
  congrArg (· + sumWords (pairWords e)) (append_toNat h l)

/-- The words of a padded sequence sum to its bytes at their weights; the pad adds nothing. -/
theorem sumWords_pairWords_padEven (e : List Byte) :
    sumWords (pairWords (padEven e)) = ((List.range e.length).map (byteWeight e)).sum := by
  induction e using pairWords.induct with
  | case1 h l e ih => rw [padEven_cons_cons, sumWords_pairWords_cons_cons, ih, sum_byteWeight_cons_cons]
  | case2 e hne =>
    match e, hne with
    | [], _ => rfl
    | [x], _ =>
      have hpad : padEven [x] = [x, 0] := rfl
      rw [hpad, sumWords_pairWords_cons_cons]
      simp [byteWeight, byteAt, pairWords, sumWords]
    | x :: y :: z, hne => exact absurd rfl (hne x y z)

/-! ### Bytes 6 and 7 -/

theorem zeroed_eq {d : List Byte} (h : 8 ≤ d.length) : (d.set 6 0).set 7 0 = d.take 6 ++ 0 :: 0 :: d.drop 8 := by
  match d, h with
  | _ :: _ :: _ :: _ :: _ :: _ :: _ :: _ :: _, _ => rfl

/-- The excised bytes would have been a word of their own, which as zero adds nothing (R125). -/
theorem sumWords_words_eq_zeroed {d : List Byte} (h : 8 ≤ d.length) :
    sumWords (words d) = sumWords (pairWords (padEven ((d.set 6 0).set 7 0))) := by
  have htake : (d.take 6).length % 2 = 0 := by rw [List.length_take]; omega
  rw [words_eq h, zeroed_eq h, padEven_append htake, padEven_cons_cons, pairWords_append htake, sumWords_append,
    sumWords_append, sumWords_pairWords_cons_cons]
  simp

/-- Also beyond the end of the list, where a byte is 0 and nothing is set (log 14). -/
theorem byteAt_set_zero (d : List Byte) (i k : Nat) : byteAt (d.set i 0) k = if k = i then 0 else byteAt d k := by
  rw [byteAt, byteAt, List.getD_eq_getElem?_getD, List.getD_eq_getElem?_getD]
  split
  case isTrue h =>
    rw [h, List.getElem?_set_self']
    cases d[i]? <;> rfl
  case isFalse h => rw [List.getElem?_set_ne (Ne.symm h)]

theorem byteAt_zeroed (d : List Byte) (k : Nat) :
    byteAt ((d.set 6 0).set 7 0) k = if k = 6 ∨ k = 7 then 0 else byteAt d k := by
  rw [byteAt_set_zero, byteAt_set_zero, ← ite_or]
  exact if_congr or_comm rfl rfl

theorem byteWeight_zeroed (d : List Byte) (k : Nat) :
    byteWeight ((d.set 6 0).set 7 0) k =
      if k = 6 ∨ k = 7 then 0 else if k % 2 = 0 then (byteAt d k).toNat * 256 else (byteAt d k).toNat := by
  rw [byteWeight, byteAt_zeroed]
  by_cases h : k = 6 ∨ k = 7
  · simp [h]
  · simp [h]

/-- The pad of an odd datagram is appended, so its last byte is the high byte of a word of its own (R125). -/
theorem words_append_singleton {d : List Byte} (h : 8 ≤ d.length) (heven : d.length % 2 = 0) (b : Byte) :
    words (d ++ [b]) = words d ++ [b ++ (0 : Byte)] := by
  have hdrop : (d.drop 8).length % 2 = 0 := by rw [List.length_drop]; omega
  rw [words_eq h, words_eq (by simp; omega), List.take_append_of_le_length (by omega),
    List.drop_append_of_le_length h, padEven_append hdrop, pairWords_append hdrop, padEven_of_even hdrop,
    List.append_assoc]
  rfl

/-- Settles O36: zeroed words sum as excised ones (`sumWords_words_eq_zeroed`), and any sequence's words as its bytes at
their weights (`sumWords_pairWords_padEven`). -/
theorem excisedWordsSumAsZeroedOnes : Obligations.ExcisedWordsSumAsZeroedOnes := by
  refine ⟨fun d h => ?_, fun d => sumWords_words_eq_zeroed, fun d b h heven => words_append_singleton h heven b⟩
  rw [sumWords_words_eq_zeroed h, sumWords_pairWords_padEven, List.length_set, List.length_set]
  exact congrArg List.sum (List.map_congr_left fun k _ => byteWeight_zeroed d k)

end Sys2Proof.Machine
end

section
/-! Proofs about the programs of R211 (42_control.md section 3): ENCODE, LEN <- OUT_LEN, then a command that checks the
datagram ENCODE has built. -/

namespace Sys2Proof.Machine

/-- The datagram ENCODE builds of a payload, from the operands of `s` (R161). -/
def State.datagram (s : State) (payload : List Byte) : List Byte :=
  encodeDatagram payload s.sport s.dport s.srcIp s.dstIp

theorem datagram_length_ge (s : State) (payload : List Byte) : 8 ≤ (s.datagram payload).length := by
  rw [State.datagram, encodeDatagram_length]
  omega

/-- After ENCODE the buffer holds the datagram, OUT_LEN is its length and RESULT its checksum (R181). -/
theorem exec_encode_of_written {s : State} (hmax : s.len.toNat ≤ 65527) (hwritten : s.Written 8 s.len.toNat) :
    ∃ payload t, payload.length = s.len.toNat ∧ exec .encode s = .next t ∧ t.Holds 0 (s.datagram payload) ∧
      (s.datagram payload).length = t.outLen.toNat ∧ t.result = pair 0 (be16 (s.datagram payload) 6) := by
  obtain ⟨payload, hlen, hholds, -⟩ := memRead_of_written hwritten
  refine ⟨payload, _, hlen, execEncode_of_holds hlen (by omega) hholds,
    memWrite_take_holds (datagram_length_ge s payload) hholds, ?_, rfl⟩
  rw [State.datagram, encodeDatagram_length, succeed_outLen, writeOutputs_outLen, BitVec.toNat_ofNat]
  omega

/-- Settles O46: CSUM_RECV reads the datagram ENCODE has built, whose checksum field is the complement
(`encodeDatagram_fullCheck`). -/
theorem encodeThenCsumRecvSumsToAllOnes : Obligations.EncodeThenCsumRecvSumsToAllOnes := by
  intro s hmax hwritten
  obtain ⟨payload, t, -, hencode, hholds, hlen, hresult⟩ := exec_encode_of_written hmax hwritten
  obtain ⟨-, -, -, hsrc, hdst, -⟩ := (completes_of_exec hencode).keepsOperands
  have hrecv := checksumCommand_of_holds receiveChecksum (s := { t with len := t.outLen }) hlen
    (datagram_length_ge s payload) hholds
  refine ⟨t, _, hencode, hrecv, ?_⟩
  have hfull : receiveChecksum (s.datagram payload) s.srcIp s.dstIp + be16 (s.datagram payload) 6 = 0xFFFF :=
    encodeDatagram_fullCheck payload s.sport s.dport s.srcIp s.dstIp
  rw [succeed_result, writeOutputs_result, hresult, hsrc, hdst, pair_toNat, pair_toNat]
  bv_omega

/-- The datagram ENCODE builds is for its own destination port and passes the full check (R191). -/
theorem decodeDatagram_datagram (s : State) (payload : List Byte) :
    decodeDatagram (s.datagram payload) s.srcIp s.dport s.dstIp =
      .accFull (parseHeader (s.datagram payload)) (receiveChecksum (s.datagram payload) s.srcIp s.dstIp)
        (pseudoHeaderSum (s.datagram payload) s.srcIp s.dstIp) payload :=
  decodeDatagram_of_fullCheck (datagram_length_ge s payload) (be16_encodeDatagram_dport ..)
    (encodeDatagram_fullCheck ..)

/-- The two port fields of the datagram are PORTS (R31, R160). -/
theorem pair_ports_datagram (s : State) (payload : List Byte) :
    pair (parseHeader (s.datagram payload)).sport (parseHeader (s.datagram payload)).dport = s.ports := by
  have hsport : (parseHeader (s.datagram payload)).sport = hiHalf s.ports := be16_encodeDatagram_sport ..
  have hdport : (parseHeader (s.datagram payload)).dport = loHalf s.ports := be16_encodeDatagram_dport ..
  rw [hsport, hdport, pair_halves]

/-- Settles O45: DECODE reads the datagram ENCODE has built, with the operands unchanged, and accepts it
(`decodeDatagram_datagram`). -/
theorem encodeThenDecodeDeliversThePayload : Obligations.EncodeThenDecodeDeliversThePayload := by
  intro s hmax hwritten
  obtain ⟨payload, t, hpayload, hencode, hholds, hlen, -⟩ := exec_encode_of_written hmax hwritten
  obtain ⟨-, -, -, hsrc, hdst, hports, -⟩ := (completes_of_exec hencode).keepsOperands
  obtain ⟨hkept, -⟩ := encodeKeepsAllButTheHeader s t hencode
  have hdport : t.dport = s.dport := by rw [State.dport, State.dport, hports]
  have hdecode : exec .decode { t with len := t.outLen } = .next (reportDecode (s.datagram payload).length
      (decodeDatagram (s.datagram payload) s.srcIp s.dport s.dstIp) { t with len := t.outLen }) := by
    rw [← hsrc, ← hdport, ← hdst]
    exact execDecode_of_holds hlen (datagram_length_ge s payload) hholds
  rw [decodeDatagram_datagram] at hdecode
  refine ⟨t, _, hencode, hdecode, rfl, rfl, rfl, pair_ports_datagram s payload, ?_, hkept⟩
  have houtLen : (s.datagram payload).length - Config.hdrLen = s.len.toNat := by
    rw [State.datagram, encodeDatagram_length, hpayload, Config.hdrLen, Nat.add_sub_cancel_left]
  rw [reportDecode, houtLen]
  exact BitVec.ofNat_toNat ..

end Sys2Proof.Machine
end
